-- ==== Sys2Proof/Word.lean ====
section
/-!
DEFINITION. The unsigned words of the block (00_scope.md R11), the text type of the host's opaque values and messages, and
floating-point patterns by width.
-/

namespace Sys2Proof

/-- `u8` (R11): one byte. -/
abbrev Byte := BitVec 8

/-- `u16` (R11): one word of the register block. -/
abbrev Half := BitVec 16

/-- `u32` (R11): a binary32 pattern, or one word of the host read map. -/
abbrev Word := BitVec 32

/-- A 64-bit pattern: the binary64 encoding of a current (R83). -/
abbrev Dword := BitVec 64

/-- A text, as its characters. -/
abbrev Text := List Char

/-- An IEEE 754 pattern with its width: the values `FMT3` renders (R174) are binary32 voltages and binary64 currents. -/
inductive FloatPattern where
  | single (b : Word)
  | double (b : Dword)
  deriving DecidableEq, Repr

end Sys2Proof
end

