-- ==== Sys2Proof/Machine/Float.lean ====
section
/-!
DEFINITION. The floating-point primitives of 00_scope.md R14: binary32 and binary64 data, exact values, widening, binary64
multiplication (round to nearest, ties to even) and the ordered comparison. The spec marks these "from general knowledge,
not in source": they are IEEE 754's (log 21).
-/

namespace Sys2Proof.Machine

/-- An IEEE 754 datum: a NaN, an infinity, or a finite value (-1)^neg * m * 2^e. -/
inductive Datum where
  | nan
  | inf (neg : Bool)
  | fin (neg : Bool) (m : Nat) (e : Int)
  deriving DecidableEq, Repr

/-- The datum of a sign, biased exponent and fraction in a format with `fb` fraction bits, greatest biased exponent `top`
and least exponent `qmin`. -/
def datumOf (fb top : Nat) (qmin : Int) (neg : Bool) (ex fr : Nat) : Datum :=
  if ex = top then (if fr = 0 then .inf neg else .nan)
  else if ex = 0 then .fin neg fr qmin
  else .fin neg (2 ^ fb + fr) (qmin + ex - 1)

/-- `f32(b)` (R14): sign b[31], biased exponent b[30:23], fraction b[22:0]. -/
def f32 (b : Word) : Datum :=
  datumOf 23 255 (-149) (b.getLsbD 31) (b.extractLsb' 23 8).toNat (b.extractLsb' 0 23).toNat

/-- The binary64 datum of a pattern: sign b[63], biased exponent b[62:52], fraction b[51:0] (R14). -/
def f64 (b : Dword) : Datum :=
  datumOf 52 2047 (-1074) (b.getLsbD 63) (b.extractLsb' 52 11).toNat (b.extractLsb' 0 52).toNat

/-- `real(x)` of a finite datum (R14): its exact rational value. -/
def real (neg : Bool) (m : Nat) (e : Int) : ℚ := (if neg then -1 else 1) * m * 2 ^ e

/-- `n / d` rounded to the nearest integer, ties to the even integer. -/
def rneDiv (n d : Nat) : Nat :=
  let q := n / d
  let r := n % d
  if 2 * r < d then q else if 2 * r = d then q + q % 2 else q + 1

/-- The exponent of the last place of `m * 2^e` in a format with `fb` fraction bits and least exponent `qmin`. -/
def lastPlace (fb : Nat) (qmin : Int) (m : Nat) (e : Int) : Int := max (e + (Nat.log2 m : Int) - fb) qmin

/-- `m * 2^e` in units of `2^q`, rounded to nearest, ties to even. -/
def toUnits (m : Nat) (e q : Int) : Nat :=
  if q ≤ e then m * 2 ^ (e - q).toNat else rneDiv m (2 ^ (q - e).toNat)

/-- The biased exponent and fraction, as one number, of `m * 2^e` rounded to nearest, ties to even, in a format with `fb`
fraction bits and least exponent `qmin`. A significand that rounds up to the next power of two carries into the
exponent. -/
def roundMagnitude (fb : Nat) (qmin : Int) (m : Nat) (e : Int) : Nat :=
  if m = 0 then 0
  else
    let q := lastPlace fb qmin m e
    (q - qmin).toNat * 2 ^ fb + toUnits m e q

/-- The binary64 pattern with a sign and a magnitude field. -/
def pack64 (neg : Bool) (mag : Nat) : Dword := BitVec.ofBool neg ++ BitVec.ofNat 63 mag

/-- The magnitude field of a binary64 infinity. -/
def infMagnitude64 : Nat := 0x7FF0000000000000

/-- The binary64 pattern nearest to (-1)^neg * m * 2^e, ties to even; beyond the range it is an infinity. -/
def round64 (neg : Bool) (m : Nat) (e : Int) : Dword :=
  pack64 neg (min (roundMagnitude 52 (-1074) m e) infMagnitude64)

/-- The binary64 infinity of a sign. -/
def inf64 (neg : Bool) : Dword := pack64 neg infMagnitude64

/-- A binary64 NaN with a given sign and fraction; a fraction of 0 would encode an infinity, and stands for the NaN whose
fraction is 2^51. So every NaN is the value of some arguments, and every value is a NaN. -/
def nan64 (neg : Bool) (fraction : BitVec 52) : Dword :=
  pack64 neg (infMagnitude64 + (if fraction = 0 then 2 ^ 51 else fraction.toNat))

/-- `widen64(f32(b))` (R14): the exact conversion of a binary32 datum to binary64; a NaN stays a NaN (its fraction, which
no rule reads, keeps its leading bits). -/
def widen64 (b : Word) : Dword :=
  match f32 b with
  | .nan => nan64 (b.getLsbD 31) (b.extractLsb' 0 23 ++ 0#29)
  | .inf neg => inf64 neg
  | .fin neg m e => round64 neg m e

/-- `x *64 y` (R14): binary64 multiplication, round to nearest, ties to even; `nan` is the NaN to answer where the result
is a NaN. -/
def mul64 (nan : Dword) (x y : Dword) : Dword :=
  match f64 x, f64 y with
  | .nan, _ => nan
  | _, .nan => nan
  | .inf a, .inf b => inf64 (a ^^ b)
  | .inf a, .fin b m _ => if m = 0 then nan else inf64 (a ^^ b)
  | .fin a m _, .inf b => if m = 0 then nan else inf64 (a ^^ b)
  | .fin a m e, .fin b n f => round64 (a ^^ b) (m * n) (e + f)

/-- A signed significand. -/
def signed (neg : Bool) (m : Nat) : Int := if neg then -(m : Int) else m

/-- The ordered comparison x >= y of two data, false when either is a NaN (R14); finite data are compared in units of the
lesser exponent. -/
def datumGe : Datum → Datum → Bool
  | .nan, _ => false
  | _, .nan => false
  | .inf false, _ => true
  | .inf true, y => y == .inf true
  | .fin _ _ _, .inf neg => neg
  | .fin a m e, .fin b n f =>
    signed b n * 2 ^ (f - min e f).toNat ≤ signed a m * 2 ^ (e - min e f).toNat

/-- `x >=64 y` (R14). -/
def ge64 (x y : Dword) : Bool := datumGe (f64 x) (f64 y)

/-- The binary64 datum of a natural number (the constants 50.0 and 30.0). -/
def nat64 (n : Nat) : Dword := round64 false n 0

/-- The decimal literal (-1)^neg * n / d as the binary32 nearest to it, ties to even (30_encoding.md R89), for d ≠ 0. With
`k` the floor of log2 (n / d), the last place is 2^(k - 23), or 2^-149 if that is greater; beyond the range the answer is an
infinity (log 18). -/
def nearest32 (neg : Bool) (n d : Nat) : Word :=
  let guess : Int := (Nat.log2 n : Int) - Nat.log2 d
  let below : Bool := n * 2 ^ (-guess).toNat < d * 2 ^ guess.toNat
  let k : Int := if below then guess - 1 else guess
  let q : Int := max (k - 23) (-149)
  let units := rneDiv (n * 2 ^ (-q).toNat) (d * 2 ^ q.toNat)
  let mag := if n = 0 then 0 else (q + 149).toNat * 2 ^ 23 + units
  BitVec.ofBool neg ++ BitVec.ofNat 31 (min mag 0x7F800000)

end Sys2Proof.Machine
end

