-- ==== Sys2Proof/Syntax.lean ====
section
/-!
DEFINITION. The commands of the block, one constructor for each row of spec/opcode_table.json, and the typed fields of the
command port (30_encoding.md R70 to R75).
-/

namespace Sys2Proof

/-- A cycle timestamp, the OPEN type TS (R10, R73): the block copies it and never inspects it.
DESIGN CHOICE (log 4): it is carried as a text. -/
structure TS where
  text : Text
  deriving DecidableEq, Repr

/-- A transport error's detail, the OPEN type DETAIL (R10, R73): copied, never inspected.
DESIGN CHOICE (log 5): it is carried as a text. -/
structure Detail where
  text : Text
  deriving DecidableEq, Repr

/-- One typed field of the command port (R70: "a typed record, not a byte stream"; no operand is split into bytes). -/
inductive PortField where
  /-- The command byte CMD (u8). -/
  | byte (c : Byte)
  /-- LEN, or one word of WORDS (u16). -/
  | half (h : Half)
  /-- A TS operand. -/
  | time (t : TS)
  /-- A DETAIL operand. -/
  | detail (d : Detail)
  deriving DecidableEq, Repr

/-- A command of the block with its operands (R72, R73). -/
inductive Instr where
  /-- `NOP`, CMD 0x00 (R152). -/
  | nop
  /-- `REGISTER`, CMD 0x01 (R153). -/
  | register
  /-- `CYCLE`, CMD 0x02 (R154): LEN, WORDS, TS. -/
  | cycle (len : Half) (words : List Half) (ts : TS)
  /-- `CYCLE_FAIL`, CMD 0x03 (R155): TS, DETAIL. -/
  | cycleFail (ts : TS) (detail : Detail)
  /-- `DECODE`, CMD 0x04 (R156): LEN, WORDS. -/
  | decode (len : Half) (words : List Half)
  /-- The reserved CMD 0x05 (R157). -/
  | illegalOp5
  /-- The reserved CMD 0x06 (R157). -/
  | illegalOp6
  /-- The reserved CMD 0x07 (R157). -/
  | illegalOp7
  /-- Any CMD with a nonzero RSV (R157); `cmd` is the whole byte. -/
  | illegalRsv (cmd : Byte)
  deriving DecidableEq, Repr

end Sys2Proof
end

