-- ==== Sys2Proof/Config.lean ====
section
/-!
DEFINITION. What is fixed for the machine: the geometry and the classifier constants (00_scope.md R8, R9), the session's
initial values (R10), the host's configuration, and the values the spec leaves open, as constants without a body.
-/

namespace Sys2Proof

/-- MachineStatus (30_encoding.md R81): six codes; 6 and 7 are never produced, and R25 admits a type of six values (log 20). -/
inductive MachineStatus where
  | powerOff
  | autoRunning
  | autoIdle
  | menuRunning
  | menuIdle
  | stopped
  deriving DecidableEq, Repr

namespace Config

/-- F, the number of float channels (R8). UNVERIFIED as to the device: the document's literals are unaudited (log 19). -/
abbrev F : Nat := 12

/-- C, the number of digital channels (R8; log 19). -/
abbrev C : Nat := 8

/-- S, the number of address words (R8; log 19). -/
abbrev S : Nat := 1

/-- L, the register-block length: 2*F + ceil(C/2) + S (R8; log 19). -/
abbrev L : Nat := 29

/-- The number of weld channels, each with a current and a voltage (R9; log 19). -/
abbrev weldChannels : Nat := 4

/-- The float channel of current 0 (R9; log 19). -/
abbrev currentBase : Nat := 0

/-- The float channel of voltage 0 (R9; log 19). -/
abbrev voltageBase : Nat := 8

/-- The fixed current scale factor (R9; log 19). -/
abbrev currentScale : Nat := 50

/-- The fixed welding threshold (R9; log 19). -/
abbrev weldThreshold : Nat := 30

/-- The first of the three status channels, digital channels 5, 6 and 7 (R9; log 19). -/
abbrev statusBase : Nat := 5

/-- The register block W[0..L) (R20). The dimensions of these four types are L, F, C and the number of weld channels, written
as numerals. -/
abbrev Block := Vector Half 29

/-- One value for each float channel. -/
abbrev PerFloat (α : Type) := Vector α 12

/-- One value for each digital channel. -/
abbrev PerDigital (α : Type) := Vector α 8

/-- One value for each weld channel. -/
abbrev PerWeld (α : Type) := Vector α 4

/-- The session's initial values INIT_STATUS, INIT_WELD, INIT_ADDR (R10). -/
structure Init where
  status : MachineStatus
  weld : Bool
  addr : Half
  deriving DecidableEq, Repr

/-- The values this spec takes for the three parameters (R10, 92_eei_decisions.md D6). A machine may be given others
(`State.resetWith`); `State.reset` is the machine of these (log 11). -/
def init : Init := { status := .powerOff, weld := false, addr := 0x0000 }

/-- The contents of W after REGISTER or an external reset, which R40 and R153 leave unspecified: a free value for each
occurrence (log 7). Instances at equal counts share it (log 29). -/
opaque registerW : Nat → Block

/-- The sign of the NaN that a NaN current is (93_implementation_defined.md item 5): free, by occurrence and channel
(log 8). Instances at equal counts share it (log 29). -/
opaque nanSign : Nat → Nat → Bool

/-- The fraction of the NaN that a NaN current is: free, by occurrence and channel (logs 8, 29). -/
opaque nanFraction : Nat → Nat → BitVec 52

/-- TZ, the host's fixed named timezone (R10, R179): OPEN (log 14). -/
opaque tz : Text

/-- The offset from UTC of an ISO-8601 time. -/
inductive Offset where
  /-- Written "Z". -/
  | utc
  /-- Written with a sign, hours and minutes. -/
  | numeric (west : Bool) (hours : Fin 24) (minutes : Fin 60)
  deriving DecidableEq, Repr, Inhabited

/-- The parts of an ISO-8601 calendar date and time with offset (R179). `month` and `day` count from 0. -/
structure ZonedTime where
  year : Fin 10000
  month : Fin 12
  day : Fin 31
  hour : Fin 24
  minute : Fin 60
  /-- The second, 60 in a leap second, and the digits of its fraction; what is written of it is the precision, which the
  host's TS has (R179). -/
  second : Option (Fin 61 × List (Fin 10))
  offset : Offset
  deriving DecidableEq, Repr, Inhabited

/-- The wall-clock time that a timestamp stands for in a named timezone, in its precision (R179): OPEN (log 14). -/
opaque zonedTime : Text → TS → ZonedTime

/-- FMT_NONFINITE (R10, R175): the host's rendering of a NaN or an infinity: OPEN (log 15). -/
opaque fmtNonfinite : FloatPattern → Text

end Config

/-- The host's device configuration (R210), "supplied at device registration, never re-read mid-run": host state, which
the block never reads (R32). Its values are OPEN (R10; log 24). Times are in a unit of the host's choosing. -/
structure DeviceConfig where
  serialPortPath : Text
  baudRate : Nat
  deviceName : Text
  pollPeriod : Nat
  reconnectPeriod : Nat
  connectionString : Text
  /-- UNIT_ADDRESS, the transport's `unitAddress` argument (R204). -/
  unitAddress : Nat
  /-- READ_TIMEOUT, the transport's bound on a blocking read (R206). -/
  readTimeout : Nat
  deriving DecidableEq, Repr

end Sys2Proof
end

