-- ==== Sys2Proof/WellFormed.lean ====
section
/-!
DEFINITION. The checks on a command's operands (30_encoding.md R71, R73).
-/

namespace Sys2Proof

/-- A command the port can carry: LEN is the number of words that follow it (R73; a result of more than 65535 words
"cannot be expressed as an operand"), and the byte of the RSV row has a nonzero RSV = CMD[7:3] (R71, R75). -/
def Instr.wellFormed : Instr → Bool
  | .nop => true
  | .register => true
  | .cycle len words _ => len.toNat == words.length
  | .cycleFail _ _ => true
  | .decode len words => len.toNat == words.length
  | .illegalOp5 => true
  | .illegalOp6 => true
  | .illegalOp7 => true
  | .illegalRsv cmd => cmd.extractLsb' 3 5 != 0

end Sys2Proof
end

