-- ==== Sys2Proof/Decode.lean ====
section
/-!
DEFINITION. The decoder and the encoder of the command port (30_encoding.md R70 to R75, R91; dispatch order 42_commands.md
R150), and the reading of a table word.
-/

namespace Sys2Proof

/-- `OP`, CMD[2:0] (R71). -/
def cmdOp (c : Byte) : BitVec 3 := c.extractLsb' 0 3

/-- `RSV`, CMD[7:3] (R71). -/
def cmdRsv (c : Byte) : BitVec 5 := c.extractLsb' 3 5

/-- Why the fields on the port form no command. The spec's host only presents typed records (R70), so each of these is a
host that broke its side; the block refuses (log 3). -/
inductive PortError where
  /-- Nothing is on the port. -/
  | noCommand
  /-- The first field is not a command byte. -/
  | notACommandByte
  /-- CYCLE or DECODE without LEN. -/
  | missingLen
  /-- Fewer than LEN words after LEN. -/
  | missingWords
  /-- CYCLE or CYCLE_FAIL without TS. -/
  | missingTime
  /-- CYCLE_FAIL without DETAIL. -/
  | missingDetail
  deriving DecidableEq, Repr

/-- WORDS: the next `n` word fields, in order, and the fields after them (R73, R74). -/
def takeWords : Nat → List PortField → Except PortError (List Half × List PortField)
  | 0, fs => .ok ([], fs)
  | n + 1, .half w :: fs => (takeWords n fs).map fun p => (w :: p.1, p.2)
  | _ + 1, _ => .error .missingWords

/-- LEN and then LEN words (R73, R74). -/
def takeBlock : List PortField → Except PortError ((Half × List Half) × List PortField)
  | .half len :: fs => (takeWords len.toNat fs).map fun p => ((len, p.1), p.2)
  | _ => .error .missingLen

/-- The TS operand (R73). -/
def takeTime : List PortField → Except PortError (TS × List PortField)
  | .time t :: fs => .ok (t, fs)
  | _ => .error .missingTime

/-- The DETAIL operand (R73). -/
def takeDetail : List PortField → Except PortError (Detail × List PortField)
  | .detail d :: fs => .ok (d, fs)
  | _ => .error .missingDetail

/-- The operands of the command whose CMD is `c`, in the order of R73; RSV is checked before OP (R150). Reserved commands
have no operands (R74, R75). -/
def decodeOperands (c : Byte) (fs : List PortField) : Except PortError (Instr × List PortField) :=
  if cmdRsv c ≠ 0 then .ok (.illegalRsv c, fs)
  else match (cmdOp c).toNat with
    | 0 => .ok (.nop, fs)
    | 1 => .ok (.register, fs)
    | 2 => do
      let (b, fs) ← takeBlock fs
      let (t, fs) ← takeTime fs
      .ok (.cycle b.1 b.2 t, fs)
    | 3 => do
      let (t, fs) ← takeTime fs
      let (d, fs) ← takeDetail fs
      .ok (.cycleFail t d, fs)
    | 4 => do
      let (b, fs) ← takeBlock fs
      .ok (.decode b.1 b.2, fs)
    | 5 => .ok (.illegalOp5, fs)
    | 6 => .ok (.illegalOp6, fs)
    | _ => .ok (.illegalOp7, fs)

/-- The port decoder (R74): "reads CMD, then reads the operands rule R73 lists for that OP (LEN words after LEN), and
nothing more". It answers the command and the fields after it. -/
def decodePort : List PortField → Except PortError (Instr × List PortField)
  | [] => .error .noCommand
  | .byte c :: fs => decodeOperands c fs
  | _ => .error .notACommandByte

/-- The CMD byte of a command (R72). -/
def Instr.cmd : Instr → Byte
  | .nop => 0x00
  | .register => 0x01
  | .cycle _ _ _ => 0x02
  | .cycleFail _ _ => 0x03
  | .decode _ _ => 0x04
  | .illegalOp5 => 0x05
  | .illegalOp6 => 0x06
  | .illegalOp7 => 0x07
  | .illegalRsv cmd => cmd

/-- The operand fields of a command, in the order of R73. -/
def Instr.operands : Instr → List PortField
  | .nop => []
  | .register => []
  | .cycle len words ts => .half len :: (words.map .half ++ [.time ts])
  | .cycleFail ts detail => [.time ts, .detail detail]
  | .decode len words => .half len :: words.map .half
  | .illegalOp5 => []
  | .illegalOp6 => []
  | .illegalOp7 => []
  | .illegalRsv _ => []

/-- The encoder: a command as the fields the host presents on the port (R70, R73). -/
def encode (i : Instr) : List PortField := .byte i.cmd :: i.operands

/-- How a row of the command table matches CMD (R91, spec/opcode_table.json): the masked byte equals a value, or is
nonzero. -/
inductive RowMatch where
  | eq (mask value : Byte)
  | nonzero (mask : Byte)
  deriving DecidableEq, Repr

/-- Whether a row matches a CMD byte. -/
def rowMatches : RowMatch → Byte → Bool
  | .eq mask value, c => c &&& mask == value
  | .nonzero mask, c => c &&& mask != 0

/-- The nine rows of spec/opcode_table.json in its order (R91): match and mask over the 8-bit CMD. -/
def opcodeRows : List RowMatch :=
  [.eq 0xFF 0x00, .eq 0xFF 0x01, .eq 0xFF 0x02, .eq 0xFF 0x03, .eq 0xFF 0x04,
   .eq 0xFF 0x05, .eq 0xFF 0x06, .eq 0xFF 0x07, .nonzero 0xF8]

/-- The row (its place in the table's order) that stands for a command. -/
def Instr.row : Instr → Nat
  | .nop => 0
  | .register => 1
  | .cycle _ _ _ => 2
  | .cycleFail _ _ => 3
  | .decode _ _ => 4
  | .illegalOp5 => 5
  | .illegalOp6 => 6
  | .illegalOp7 => 7
  | .illegalRsv _ => 8

/-- Operand fields of zeros after a CMD byte: LEN 0 (so no words), the empty timestamp, the empty detail (log 10). -/
def zeroOperands (c : Byte) : List PortField :=
  if cmdRsv c ≠ 0 then []
  else match (cmdOp c).toNat with
    | 2 => [.half 0, .time ⟨[]⟩]
    | 3 => [.time ⟨[]⟩, .detail ⟨[]⟩]
    | 4 => [.half 0]
    | _ => []

/-- The port fields of a table word: its low `nbits` bits give CMD (every row of the table is 8 bits), and each operand the
table gives no bits is zero (log 10). -/
def portOfTableWord (nbits w : Nat) : List PortField :=
  let c := BitVec.ofNat 8 (w % 2 ^ nbits)
  .byte c :: zeroOperands c

/-- The command this decoder reads from a table word. -/
def decodeTableWord (nbits w : Nat) : Option Instr :=
  match decodePort (portOfTableWord nbits w) with
  | .ok (i, _) => some i
  | .error _ => none

end Sys2Proof
end

