-- ==== Sys2Proof/Machine/State.lean ====
section
/-!
DEFINITION. The state of one block instance (10_state.md), its records (30_encoding.md R83, R87), the reasons a step can
stop, and the machine right after reset (R40, R220).
-/

namespace Sys2Proof.Machine

/-- ERR_KIND (60_exceptions.md R191); codes 4..7 are never produced (log 20). -/
inductive ErrKind where
  | none
  | transport
  | decode
  | illegalCmd
  deriving DecidableEq, Repr

/-- ERR_REASON (60_exceptions.md R192); code 3 is never produced (log 20). -/
inductive ErrReason where
  | none
  | shortRead
  | lengthMismatch
  deriving DecidableEq, Repr

/-- The device session (10_state.md R24). -/
structure Session where
  /-- PREV_STATUS. -/
  prevStatus : MachineStatus
  /-- PREV_WELD. -/
  prevWeld : Bool
  /-- LAST_ADDR. -/
  lastAddr : Half
  deriving DecidableEq, Repr

/-- Telemetry: the result of a decode (40_decoder.md R100), and the contents of the telemetry latch (10_state.md R26). -/
structure Telemetry where
  /-- TEL_F: the binary32 pattern of each float channel. -/
  floats : Config.PerFloat Word
  /-- TEL_D: each digital channel. -/
  dig : Config.PerDigital Byte
  /-- TEL_ADDR: the address word. -/
  addr : Half
  deriving DecidableEq, Repr

/-- RESULT (10_state.md R27): the outcome of the most recent command other than NOP. -/
structure Result where
  errKind : ErrKind
  errReason : ErrReason
  evCount : BitVec 2
  deriving DecidableEq, Repr

/-- An event record (30_encoding.md R83). -/
inductive EventRecord where
  | measurement (U : Config.PerWeld Word) (I : Config.PerWeld Dword) (status : MachineStatus)
      (weld : Bool) (id : Half) (time : TS)
  | statusChanged (status : MachineStatus) (id : Half) (time : TS)
  | wmStatusChanged (weld : Bool) (id : Half) (time : TS)
  deriving DecidableEq, Repr

/-- An error record (30_encoding.md R87). -/
structure ErrorRecord where
  kind : ErrKind
  reason : ErrReason
  cmd : Byte
  time : Option TS
  detail : Option Detail
  deriving DecidableEq, Repr

/-- The state of one block instance. -/
structure State where
  /-- The parameters INIT_STATUS, INIT_WELD and INIT_ADDR (00_scope.md R10), which the machine is configured with and no
  command writes. The model's own field (log 11). -/
  init : Config.Init
  /-- BLK_LEN (R22). -/
  blkLen : Half
  /-- The session registers (R24). -/
  session : Session
  /-- TEL_VALID (R26). -/
  telValid : Bool
  /-- RESULT (R27). -/
  result : Result
  /-- EVQ, the event stream, oldest first (R30). -/
  evq : List EventRecord
  /-- ERRQ, the error stream, oldest first (R30). -/
  errq : List ErrorRecord
  /-- The command port: the fields of the commands the host has issued and the block has not taken, first to be taken
  first (R70, R74). The model's own field (log 1). -/
  port : List PortField
  /-- The number of free values taken so far. The model's own field (log 9). -/
  freeCtr : Nat
  /-- TEL_F, TEL_D and TEL_ADDR (R26). -/
  latch : Telemetry
  /-- W[0..29), the block buffer (R20). -/
  w : Config.Block
  deriving DecidableEq, Repr

/-- Faults: none. No behaviour the spec gives the block stops it: every error is a next state (R195), and "None are fatal
to the process" (R199; log 28). -/
inductive Fault where
  deriving DecidableEq, Repr

/-- Refusals: what the spec says a model or the host refuses. -/
inductive Refusal where
  /-- Raised by `exec`'s arm of an instruction without a meaning; no arm is left so. Safe. -/
  | notModelled (mnemonic : String)
  /-- Raised by `step` when the fields on the port form no command, which a host that presents typed records (R70) cannot
  cause. Safe (log 3). -/
  | malformedCommand (e : PortError)
  /-- Raised by `hostRead` at an offset at or above 0x40, which "does not exist; a model refuses such a read" (R39).
  Safe. -/
  | hostReadOutOfRange (off : Nat)
  /-- Raised by `initOfCodes` for an INIT_STATUS outside 0..5: "A model given INIT_STATUS outside 0..5 refuses the
  configuration" (R25). Safe. -/
  | initStatusOutOfRange (code : BitVec 3)
  /-- Raised by `cycleCommand`, the host, for a transport result of more than 65535 words: "the host refuses to issue it"
  (R73). Safe. -/
  | tooManyWords (n : Nat)
  deriving DecidableEq, Repr

/-- The session's reset value under the parameters (R40). -/
def Session.reset (i : Config.Init) : Session := { prevStatus := i.status, prevWeld := i.weld, lastAddr := i.addr }

/-- The latch's reset value (R40). -/
def Telemetry.zero : Telemetry :=
  { floats := Vector.replicate 12 0, dig := Vector.replicate 8 0, addr := 0 }

/-- RESULT's reset value (R40). -/
def Result.zero : Result := { errKind := .none, errReason := .none, evCount := 0 }

/-- The machine right after power-on under given parameters (R10, R40, R220): "after reset the block waits for its first
command". W is unspecified there; DESIGN CHOICE zero (log 6). The free-value counter starts at 0, a DESIGN CHOICE
(log 9). -/
def State.resetWith (i : Config.Init) : State :=
  { init := i
    w := Vector.replicate 29 0
    blkLen := 0
    session := Session.reset i
    latch := Telemetry.zero
    telValid := false
    result := Result.zero
    evq := []
    errq := []
    port := []
    freeCtr := 0 }

/-- The machine right after power-on under the parameters' default values (R10, R40; log 11). -/
def State.reset : State := State.resetWith Config.init

end Sys2Proof.Machine
end

