-- ==== Sys2Proof/Machine/Flags.lean ====
section
/-!
DEFINITION. The values the classifier derives from telemetry (41_classifier.md sections 1 to 3): voltages, currents, the
welding-active flag and the MachineStatus.
-/

namespace Sys2Proof.Machine

/-- The free NaN of one occurrence and weld channel (93_implementation_defined.md item 5: "any value among the NaNs";
log 8). DESIGN CHOICE (log 29): it is one function of the count and the channel, for all instances. -/
def freeNaN (occurrence k : Nat) : Dword := nan64 (Config.nanSign occurrence k) (Config.nanFraction occurrence k)

/-- `U[k]` (R121): the pattern of float channel 8 + k, unchanged. -/
def voltage (tel : Telemetry) (k : Fin 4) : Word :=
  tel.floats[Config.voltageBase + k.val]'(by simp only [Config.voltageBase]; omega)

/-- The pattern of the float channel that current k scales. -/
def currentInput (tel : Telemetry) (k : Fin 4) : Word :=
  tel.floats[Config.currentBase + k.val]'(by simp only [Config.currentBase]; omega)

/-- The current of a float pattern (R122): `widen64(f32(b)) *64 50.0`; `nan` is the NaN to answer for a NaN. -/
def scaleCurrent (nan : Dword) (b : Word) : Dword := mul64 nan (widen64 b) (nat64 Config.currentScale)

/-- `I[k]` (R122). -/
def current (occurrence : Nat) (tel : Telemetry) (k : Fin 4) : Dword :=
  scaleCurrent (freeNaN occurrence k) (currentInput tel k)

/-- `weld_k` (R124): `I[k] >=64 30.0`. -/
def weldTest (i : Dword) : Bool := ge64 i (nat64 Config.weldThreshold)

/-- The comparator on the pattern that R125 gives as an equivalent form of the weld test. -/
def weldComparator (b : Word) : Bool := decide (0x3F19999A ≤ b.toNat ∧ b.toNat ≤ 0x7F800000)

/-- The welding-active flag of four currents (R126). -/
def weldFlag (i : Config.PerWeld Dword) : Bool :=
  weldTest i[0] || weldTest i[1] || weldTest i[2] || weldTest i[3]

/-- `DeriveStatus(d5, d6, d7, prev)` (R127): sequential overwrite, the later rule wins. -/
def deriveStatus (d5 d6 d7 : Byte) (prev : MachineStatus) : MachineStatus :=
  let s := prev
  let s := if d7 ≠ 0 then .stopped else s
  let s := if d5 = 1 then .autoIdle else s
  let s := if d5 = 2 then .autoRunning else s
  let s := if d6 = 1 then .menuIdle else s
  let s := if d6 = 2 then .menuRunning else s
  let s := if d5 = 0 ∧ d6 = 0 ∧ d7 = 0 then .powerOff else s
  s

end Sys2Proof.Machine
end

