-- ==== Sys2Proof/Machine/Classifier.lean ====
section
/-!
DEFINITION. The status classifier and edge detector: `Classify` (41_classifier.md R120, R131 to R135).
-/

namespace Sys2Proof.Machine

/-- What `Classify` answers (R120): the new status, the new welding-active flag, the event records. -/
structure Classified where
  status : MachineStatus
  weld : Bool
  events : List EventRecord
  deriving DecidableEq, Repr

/-- The StatusChanged record, if one is produced (R132). -/
def statusEdge (s prev : MachineStatus) (id : Half) (ts : TS) : List EventRecord :=
  if s ≠ prev then [.statusChanged s id ts] else []

/-- The WMStatusChanged record, if one is produced (R133). -/
def weldEdge (w prev : Bool) (id : Half) (ts : TS) : List EventRecord :=
  if w ≠ prev then [.wmStatusChanged w id ts] else []

/-- `Classify(tel, prevS, prevW, ts)` (R135): Measurement always, then StatusChanged and WMStatusChanged where their value
differs (R134). `occurrence` numbers the free values of NaN currents (log 8). -/
def classify (occurrence : Nat) (tel : Telemetry) (prevS : MachineStatus) (prevW : Bool) (ts : TS) : Classified :=
  let U := Vector.ofFn (voltage tel)
  let I := Vector.ofFn (current occurrence tel)
  let w := weldFlag I
  let s := deriveStatus tel.dig[Config.statusBase] tel.dig[Config.statusBase + 1] tel.dig[Config.statusBase + 2] prevS
  { status := s
    weld := w
    events := .measurement U I s w tel.addr ts :: (statusEdge s prevS tel.addr ts ++ weldEdge w prevW tel.addr ts) }

end Sys2Proof.Machine
end

