-- ==== Sys2Proof/Machine/Bytes.lean ====
section
/-!
DEFINITION. Byte helpers (00_scope.md R12) and the byte remap of a float channel's word pair with its inverse
(40_decoder.md R104, R111; 30_encoding.md R77).
-/

namespace Sys2Proof.Machine

/-- The low byte, `w[7:0]` (R12). -/
def lo8 (w : Half) : Byte := w.extractLsb' 0 8

/-- The high byte, `w[15:8]` (R12). -/
def hi8 (w : Half) : Byte := w.extractLsb' 8 8

/-- `bswap16(w) = {lo8(w), hi8(w)}` (R12). -/
def bswap16 (w : Half) : Half := lo8 w ++ hi8 w

/-- The binary32 pattern of the word pair (W[2i], W[2i+1]): {byte0, byte1, byte2, byte3} with byte0 most significant
(R104). -/
def remap (lo hi : Half) : Word := lo8 hi ++ hi8 hi ++ lo8 lo ++ hi8 lo

/-- `Enc(b) = (bswap16(b[15:0]), bswap16(b[31:16]))`, the word pair of a pattern (R111). -/
def unmap (b : Word) : Half × Half := (bswap16 (b.extractLsb' 0 16), bswap16 (b.extractLsb' 16 16))

end Sys2Proof.Machine
end

