-- ==== Sys2Proof/Machine/Operands.lean ====
section
/-!
DEFINITION. The register-block decoder (40_decoder.md): bounded reads of W, the length check, the float, digital and address
channels, and `Decode`.
-/

namespace Sys2Proof.Machine

/-- `n` values computed in index order, or the first error among them. -/
def collect {ε α : Type} : (n : Nat) → (Fin n → Except ε α) → Except ε (Vector α n)
  | 0, _ => .ok #v[]
  | n + 1, f => do
    let xs ← collect n (fun i => f i.castSucc)
    let x ← f (Fin.last n)
    .ok (xs.push x)

/-- `BlkRead(k)` (R101): W[k] where k < BLK_LEN and k < L, else DecodeError(SHORT_READ). -/
def blkRead (w : Config.Block) (len : Half) (k : Nat) : Except ErrReason Half :=
  if h : k < len.toNat ∧ k < Config.L then .ok (w[k]'h.2) else .error .shortRead

/-- The length check (R102). -/
def lengthCheck (len : Half) : Except ErrReason Unit :=
  if len.toNat < Config.L then .error .shortRead
  else if len.toNat > Config.L then .error .lengthMismatch
  else .ok ()

/-- `FloatBits(i)` (R104), from words 2i and 2i+1. -/
def floatBits (w : Config.Block) (len : Half) (i : Nat) : Except ErrReason Word := do
  let lo ← blkRead w len (2 * i)
  let hi ← blkRead w len (2 * i + 1)
  .ok (remap lo hi)

/-- `Digital(c)` (R107): the low byte of word 2F + floor(c/2) for an even channel, the high byte for an odd one. -/
def digital (w : Config.Block) (len : Half) (c : Nat) : Except ErrReason Byte := do
  let x ← blkRead w len (2 * Config.F + c / 2)
  .ok (if c % 2 = 0 then lo8 x else hi8 x)

/-- `Address` (R108): word 2F + ceil(C/2). -/
def address (w : Config.Block) (len : Half) : Except ErrReason Half :=
  blkRead w len (2 * Config.F + (Config.C + 1) / 2)

/-- `Decode(W, BLK_LEN)` (R100, R109): the length check, then every float, every digital channel and the address; all or
nothing. -/
def decodeBlock (w : Config.Block) (len : Half) : Except ErrReason Telemetry := do
  lengthCheck len
  let floats ← collect 12 (fun i => floatBits w len i)
  let dig ← collect 8 (fun c => digital w len c)
  let addr ← address w len
  .ok { floats := floats, dig := dig, addr := addr }

end Sys2Proof.Machine
end

