-- ==== Sys2Proof/Machine/Ops.lean ====
section
/-!
DEFINITION. The named operations on the state that the commands share: delivering a block, writing the latch, emitting,
committing, the error outcome (60_exceptions.md R195, the block's trap entry; R199 gives it no return), and reset.
-/

namespace Sys2Proof.Machine

/-- W after the delivery of `n` words `v` (10_state.md R22): W[k] <- v[k] for k in 0..min(n, L); the other words of W keep
their values, as does a word that a list shorter than `n` does not hold (log 12). -/
def deliverWords (n : Half) (v : List Half) (w : Config.Block) : Config.Block :=
  Vector.ofFn fun k => if k.val < n.toNat then (v[k.val]?).getD w[k] else w[k]

/-- The start of a CYCLE or DECODE transaction (R22): BLK_LEN <- n, and the words to W. -/
def deliver (n : Half) (v : List Half) (s : State) : State := { s with blkLen := n, w := deliverWords n v s.w }

/-- A successful decode writes the whole latch and sets TEL_VALID (R26). -/
def writeLatch (tel : Telemetry) (s : State) : State := { s with latch := tel, telValid := true }

/-- `Emit(e)` for each record of a list, in list order (R13, R30). -/
def emit (evs : List EventRecord) (s : State) : State := { s with evq := s.evq ++ evs }

/-- `Log(r)` (R13, R30). -/
def log (r : ErrorRecord) (s : State) : State := { s with errq := s.errq ++ [r] }

/-- The commit of the prior state (41_classifier.md R136). -/
def commit (status : MachineStatus) (weld : Bool) (addr : Half) (s : State) : State :=
  { s with session := { prevStatus := status, prevWeld := weld, lastAddr := addr } }

/-- RESULT of a command that completed without error (42_commands.md R153, R154, R156). -/
def succeed (events : Nat) (s : State) : State :=
  { s with result := { errKind := .none, errReason := .none, evCount := BitVec.ofNat 2 events } }

/-- One occurrence of free values has been taken (log 9). -/
def takeFree (s : State) : State := { s with freeCtr := s.freeCtr + 1 }

/-- Which errors clear TEL_VALID: "TransportError and DecodeError only" (R195). -/
def clearsTelValid : ErrKind → Bool
  | .none => false
  | .transport => true
  | .decode => true
  | .illegalCmd => false

/-- The error outcome (R195): RESULT takes the kind and reason with EV_COUNT = 0, TEL_VALID is cleared for the two kinds
that clear it, one error record is appended to ERRQ, and nothing else happens. "There is no vector, no saved program
counter, no mode change and no mask change." -/
def raiseError (kind : ErrKind) (reason : ErrReason) (cmd : Byte) (time : Option TS) (detail : Option Detail) (s : State) :
    State :=
  log { kind := kind, reason := reason, cmd := cmd, time := time, detail := detail }
    { s with
      result := { errKind := kind, errReason := reason, evCount := 0 }
      telValid := if clearsTelValid kind then false else s.telValid }

/-- The IllegalCommand outcome (42_commands.md R157). -/
def illegal (c : Byte) (s : State) : State := raiseError .illegalCmd .none c none none s

/-- Reset of a running instance, and REGISTER (R40, R153, R220, R221): every element takes its reset value; W becomes
unspecified, a free value (logs 7, 29); EVQ and ERRQ keep their records. DESIGN CHOICE (log 30): the commands the host has
issued and the block has not taken stay on the port and run after the reset. -/
def resetBlock (s : State) : State :=
  { takeFree s with
    w := Config.registerW s.freeCtr
    blkLen := 0
    session := Session.reset s.init
    latch := Telemetry.zero
    telValid := false
    result := Result.zero }

end Sys2Proof.Machine
end

