-- ==== Sys2Proof/Machine/Commands.lean ====
section
/-!
DEFINITION. The meanings of the five commands (42_commands.md R152 to R156).
-/

namespace Sys2Proof.Machine

/-- NOP (R152): nothing. -/
def execNop (s : State) : Host.Outcome State Fault Refusal := .next s

/-- REGISTER (R153): every element takes its value of 10_state.md R40. -/
def execRegister (s : State) : Host.Outcome State Fault Refusal := .next (resetBlock s)

/-- CYCLE (R154): deliver the block; on a DecodeError the error outcome; on success the latch, the events in order, the
commit and RESULT. -/
def execCycle (len : Half) (words : List Half) (ts : TS) (s : State) : Host.Outcome State Fault Refusal :=
  let s := deliver len words s
  match decodeBlock s.w s.blkLen with
  | .error r => .next (raiseError .decode r 0x02 (some ts) none s)
  | .ok tel =>
    let c := classify s.freeCtr tel s.session.prevStatus s.session.prevWeld ts
    .next (takeFree (succeed c.events.length (commit c.status c.weld tel.addr (emit c.events (writeLatch tel s)))))

/-- CYCLE_FAIL (R155): the TransportError outcome. -/
def execCycleFail (ts : TS) (detail : Detail) (s : State) : Host.Outcome State Fault Refusal :=
  .next (raiseError .transport .none 0x03 (some ts) (some detail) s)

/-- DECODE (R156): deliver the block; on a DecodeError the error outcome; on success the latch and RESULT. -/
def execDecode (len : Half) (words : List Half) (s : State) : Host.Outcome State Fault Refusal :=
  let s := deliver len words s
  match decodeBlock s.w s.blkLen with
  | .error r => .next (raiseError .decode r 0x04 none none s)
  | .ok tel => .next (succeed 0 (writeLatch tel s))

end Sys2Proof.Machine
end

