-- ==== Sys2Proof/Machine/Illegal.lean ====
section
/-!
DEFINITION. The meanings of the four reserved rows: each performs the IllegalCommand outcome (42_commands.md R157).
-/

namespace Sys2Proof.Machine

/-- CMD 0x05 (R157). -/
def execIllegalOp5 (s : State) : Host.Outcome State Fault Refusal := .next (illegal 0x05 s)

/-- CMD 0x06 (R157). -/
def execIllegalOp6 (s : State) : Host.Outcome State Fault Refusal := .next (illegal 0x06 s)

/-- CMD 0x07 (R157). -/
def execIllegalOp7 (s : State) : Host.Outcome State Fault Refusal := .next (illegal 0x07 s)

/-- A CMD with a nonzero RSV (R157). -/
def execIllegalRsv (cmd : Byte) (s : State) : Host.Outcome State Fault Refusal := .next (illegal cmd s)

end Sys2Proof.Machine
end

