-- ==== Sys2Proof/Machine/Dispatch.lean ====
section
/-!
DEFINITION. One arm per command (42_commands.md R150).
-/

namespace Sys2Proof.Machine

def exec (i : Instr) (s : State) : Host.Outcome State Fault Refusal :=
  match i with
  | .nop => Sys2Proof.Machine.execNop s
  | .register => Sys2Proof.Machine.execRegister s
  | .cycle len words ts => Sys2Proof.Machine.execCycle len words ts s
  | .cycleFail ts detail => Sys2Proof.Machine.execCycleFail ts detail s
  | .decode len words => Sys2Proof.Machine.execDecode len words s
  | .illegalOp5 => Sys2Proof.Machine.execIllegalOp5 s
  | .illegalOp6 => Sys2Proof.Machine.execIllegalOp6 s
  | .illegalOp7 => Sys2Proof.Machine.execIllegalOp7 s
  | .illegalRsv cmd => Sys2Proof.Machine.execIllegalRsv cmd s

end Sys2Proof.Machine
end

