-- ==== Sys2Proof/Machine/Step.lean ====
section
/-!
DEFINITION. One step: the complete execution of the next command the host has issued (00_scope.md R17, 20_memory.md R56).
-/

namespace Sys2Proof.Machine

/-- One step. With nothing on the port the block "waits for its first command" (R220) and "holds its state unchanged
indefinitely" (R215; log 2). Otherwise it takes one command from the port and executes it whole (R56, R150). Fields that
form no command are refused (log 3). -/
def step (s : State) : Host.Outcome State Fault Refusal :=
  match decodePort s.port with
  | .ok (i, rest) => exec i { s with port := rest }
  | .error .noCommand => .next s
  | .error e => .refused (.malformedCommand e)

/-- The state with one table word's command, its operands zero, as all that is on the port: what the host's issuing of
that command leaves there (log 1, log 10). -/
def State.withFetchWord (s : State) (nbits w : Nat) : State := { s with port := portOfTableWord nbits w }

end Sys2Proof.Machine
end

