-- ==== Sys2Proof/Machine/Asm.lean ====
section
/-!
DEFINITION. The textual form of a command (30_encoding.md R88), the BLOCK pseudo-operand and its expansion (R89), and the
pseudo-commands CYCLEB and DECODEB (R90). A line assembles to the fields the host presents on the port. Lexical details the
rules leave open are in log 17.
-/

namespace Sys2Proof.Machine

/-- The register block `BLOCK(f, d, a)` expands to (R89): the word pair of each float, the digital words {c_{2j+1}, c_{2j}},
the address. -/
def blockWords (f : Config.PerFloat Word) (d : Config.PerDigital Byte) (a : Half) : List Half :=
  f.toList.flatMap (fun b => [(unmap b).1, (unmap b).2]) ++
    [d[1] ++ d[0], d[3] ++ d[2], d[5] ++ d[4], d[7] ++ d[6]] ++ [a]

/-- A token of a command line. -/
inductive Token where
  | name (t : Text)
  | number (t : Text)
  | time (t : Text)
  | quoted (t : Text)
  | equals
  | comma
  | openList
  | closeList
  | openParen
  | closeParen
  deriving DecidableEq, Repr

/-- Characters of a mnemonic or an operand's name. -/
def isNameChar (c : Char) : Bool := c.isAlphanum || c == '_'

/-- Characters of a number. -/
def isNumberChar (c : Char) : Bool := c.isAlphanum || c == '.'

/-- The tokens of a line; a `;` outside a timestamp and a quoted text starts a comment (R88). `fuel` bounds the number of
tokens. -/
def tokens : Nat → Text → Option (List Token)
  | 0, cs => if cs.isEmpty then some [] else none
  | _ + 1, [] => some []
  | fuel + 1, c :: cs =>
    if c == ' ' || c == '\t' then tokens fuel cs
    else if c == ';' then some []
    else if c == '=' then (tokens fuel cs).map (.equals :: ·)
    else if c == ',' then (tokens fuel cs).map (.comma :: ·)
    else if c == '[' then (tokens fuel cs).map (.openList :: ·)
    else if c == ']' then (tokens fuel cs).map (.closeList :: ·)
    else if c == '(' then (tokens fuel cs).map (.openParen :: ·)
    else if c == ')' then (tokens fuel cs).map (.closeParen :: ·)
    else if c == '<' then
      match cs.dropWhile (· != '>') with
      | [] => none
      | _ :: rest => (tokens fuel rest).map (.time (cs.takeWhile (· != '>')) :: ·)
    else if c == '"' then
      match cs.dropWhile (· != '"') with
      | [] => none
      | _ :: rest => (tokens fuel rest).map (.quoted (cs.takeWhile (· != '"')) :: ·)
    else if c.isDigit || c == '-' then
      (tokens fuel (cs.dropWhile isNumberChar)).map (.number (c :: cs.takeWhile isNumberChar) :: ·)
    else if c.isAlpha || c == '.' then
      (tokens fuel (cs.dropWhile isNameChar)).map (.name (c :: cs.takeWhile isNameChar) :: ·)
    else none

/-- The value of a decimal digit. -/
def decDigit (c : Char) : Option Nat := if c.isDigit then some (c.toNat - 48) else none

/-- The value of a hexadecimal digit. -/
def hexDigit (c : Char) : Option Nat :=
  if c.isDigit then some (c.toNat - 48)
  else if 'A' ≤ c ∧ c ≤ 'F' then some (c.toNat - 55)
  else if 'a' ≤ c ∧ c ≤ 'f' then some (c.toNat - 87)
  else none

/-- The number that digits write in a base, after the digits read so far gave `acc`. -/
def digitsValue (base : Nat) (digit : Char → Option Nat) : Nat → Text → Option Nat
  | acc, [] => some acc
  | acc, c :: cs =>
    match digit c with
    | some v => digitsValue base digit (acc * base + v) cs
    | none => none

/-- The value of one digit or more. -/
def someDigits (base : Nat) (digit : Char → Option Nat) (cs : Text) : Option Nat :=
  if cs.isEmpty then none else digitsValue base digit 0 cs

/-- `0x` and exactly `n` hexadecimal digits (R88, R89). -/
def hexNumber (n : Nat) : Text → Option Nat
  | '0' :: 'x' :: cs => if cs.length = n then someDigits 16 hexDigit cs else none
  | _ => none

/-- An unsigned number, decimal or `0x` hexadecimal. -/
def natNumber : Text → Option Nat
  | '0' :: 'x' :: cs => someDigits 16 hexDigit cs
  | cs => someDigits 10 decDigit cs

/-- A word of a WORDS list: "4-digit hexadecimal with `0x`" (R88). -/
def wordNumber (cs : Text) : Option Half := (hexNumber 4 cs).map (BitVec.ofNat 16)

/-- A number that fits in `n` bits. -/
def bounded (n : Nat) (cs : Text) : Option (BitVec n) :=
  (natNumber cs).bind fun v => if v < 2 ^ n then some (BitVec.ofNat n v) else none

/-- An unsigned decimal literal as the binary32 nearest to it (R89). -/
def decimal32 (neg : Bool) (cs : Text) : Option Word :=
  let whole := cs.takeWhile (· != '.')
  match cs.dropWhile (· != '.') with
  | [] => (someDigits 10 decDigit whole).map fun n => nearest32 neg n 1
  | _ :: frac => do
    let n ← someDigits 10 decDigit whole
    let m ← someDigits 10 decDigit frac
    some (nearest32 neg (n * 10 ^ frac.length + m) (10 ^ frac.length))

/-- A float of BLOCK: "a 32-bit pattern written `0xHHHHHHHH`, or a decimal literal" (R89). -/
def floatNumber : Text → Option Word
  | '0' :: 'x' :: cs => (hexNumber 8 ('0' :: 'x' :: cs)).map (BitVec.ofNat 32)
  | '-' :: cs => decimal32 true cs
  | cs => decimal32 false cs

/-- The items of a list after its first, up to the closing bracket. -/
def listRest {α : Type} (item : Text → Option α) : List Token → Option (List α × List Token)
  | .closeList :: ts => some ([], ts)
  | .comma :: .number n :: ts => do
    let x ← item n
    let (xs, rest) ← listRest item ts
    some (x :: xs, rest)
  | _ => none

/-- A bracketed list. -/
def bracketed {α : Type} (item : Text → Option α) : List Token → Option (List α × List Token)
  | .openList :: .closeList :: ts => some ([], ts)
  | .openList :: .number n :: ts => do
    let x ← item n
    let (xs, rest) ← listRest item ts
    some (x :: xs, rest)
  | _ => none

/-- A list as a vector of a fixed length. -/
def vectorOf {α : Type} (n : Nat) (xs : List α) : Option (Vector α n) :=
  if h : xs.toArray.size = n then some ⟨xs.toArray, h⟩ else none

/-- The operand `name=`. -/
def keyword (t : Text) : List Token → Option (List Token)
  | .name u :: .equals :: ts => if u = t then some ts else none
  | _ => none

/-- A comma. -/
def comma : List Token → Option (List Token)
  | .comma :: ts => some ts
  | _ => none

/-- `BLOCK(f=[b0, …, b11], d=[c0, …, c7], a=A)` as its words (R89), at the end of a line. -/
def blockOperand : List Token → Option (List Half)
  | .name b :: .openParen :: ts => do
    if b = "BLOCK".toList then
      let ts ← keyword ['f'] ts
      let (fs, ts) ← bracketed floatNumber ts
      let ts ← keyword ['d'] (← comma ts)
      let (ds, ts) ← bracketed (bounded 8) ts
      let ts ← keyword ['a'] (← comma ts)
      match ts with
      | [.number n, .closeParen] =>
        some (blockWords (← vectorOf 12 fs) (← vectorOf 8 ds) (← bounded 16 n))
      | _ => none
    else none
  | _ => none

/-- A list of words at the end of a line (R88). -/
def wordsOperand (ts : List Token) : Option (List Half) :=
  match bracketed wordNumber ts with
  | some (ws, []) => some ws
  | _ => none

/-- The operand `ts=<TS>`. -/
def timeOperand (ts : List Token) : Option (TS × List Token) :=
  match keyword "ts".toList ts with
  | some (.time t :: rest) => some (⟨t⟩, rest)
  | _ => none

/-- LEN, "number of words in the list" (R88), where a u16 holds it (R73). -/
def wordCount (ws : List Half) : Option Half :=
  if ws.length < 65536 then some (BitVec.ofNat 16 ws.length) else none

/-- A CYCLE with the words of its last operand. -/
def cycleLine (words : List Token → Option (List Half)) (ts : List Token) : Option (List PortField) := do
  let (t, ts) ← timeOperand ts
  let ws ← words (← comma ts)
  some (encode (.cycle (← wordCount ws) ws t))

/-- A DECODE with the words of its operand. -/
def decodeLine (words : List Token → Option (List Half)) (ts : List Token) : Option (List PortField) := do
  let ws ← words ts
  some (encode (.decode (← wordCount ws) ws))

/-- CYCLE_FAIL's operands. -/
def cycleFailLine (ts : List Token) : Option (List PortField) := do
  let (t, ts) ← timeOperand ts
  match keyword "detail".toList (← comma ts) with
  | some [.quoted d] => some (encode (.cycleFail t ⟨d⟩))
  | _ => none

/-- The port fields of a line's tokens (R88, R90); a line without tokens gives none. -/
def assembleTokens : List Token → Option (List PortField)
  | [] => some []
  | .name m :: ts =>
    if m = "NOP".toList then (if ts.isEmpty then some (encode .nop) else none)
    else if m = "REGISTER".toList then (if ts.isEmpty then some (encode .register) else none)
    else if m = "CYCLE".toList then cycleLine wordsOperand ts
    else if m = "CYCLEB".toList then cycleLine blockOperand ts
    else if m = "CYCLE_FAIL".toList then cycleFailLine ts
    else if m = "DECODE".toList then decodeLine wordsOperand ts
    else if m = "DECODEB".toList then decodeLine blockOperand ts
    else if m = ".cmd".toList then
      match ts with
      | [.number n] => (hexNumber 2 n).map fun c => [.byte (BitVec.ofNat 8 c)]
      | _ => none
    else none
  | _ => none

/-- The port fields of one line of command text (R88). -/
def assembleLine (line : Text) : Option (List PortField) := (tokens line.length line).bind assembleTokens

/-- The port fields of a program, its lines in order. -/
def assemble : List Text → Option (List PortField)
  | [] => some []
  | line :: rest => do
    let fs ← assembleLine line
    let gs ← assemble rest
    some (fs ++ gs)

/-- A hexadecimal digit. -/
def hexChar (n : Nat) : Char := if n % 16 < 10 then Char.ofNat (48 + n % 16) else Char.ofNat (55 + n % 16)

/-- `0x` and `n` hexadecimal digits. -/
def hexText (n v : Nat) : Text := '0' :: 'x' :: ((List.range n).reverse.map fun k => hexChar (v / 16 ^ k))

/-- Items separated by a comma and a space. -/
def commaSeparated : List Text → Text
  | [] => []
  | [t] => t
  | t :: u :: ts => t ++ [',', ' '] ++ commaSeparated (u :: ts)

/-- The words of a command as a list. -/
def wordsText (ws : List Half) : Text := ['['] ++ commaSeparated (ws.map fun w => hexText 4 w.toNat) ++ [']']

/-- The textual form of a command (R88). -/
def commandText : Instr → Text
  | .nop => "NOP".toList
  | .register => "REGISTER".toList
  | .cycle _ words ts => "CYCLE ts=<".toList ++ ts.text ++ ">, ".toList ++ wordsText words
  | .cycleFail ts detail => "CYCLE_FAIL ts=<".toList ++ ts.text ++ ">, detail=".toList ++ ['"'] ++ detail.text ++ ['"']
  | .decode _ words => "DECODE ".toList ++ wordsText words
  | .illegalOp5 => ".cmd 0x05".toList
  | .illegalOp6 => ".cmd 0x06".toList
  | .illegalOp7 => ".cmd 0x07".toList
  | .illegalRsv cmd => ".cmd ".toList ++ hexText 2 cmd.toNat

end Sys2Proof.Machine
end

