-- ==== Sys2Proof/Machine/Codes.lean ====
section
/-!
DEFINITION. The numeric codes of the enumerated values (30_encoding.md R81, 60_exceptions.md R191, R192) and the check of
the configured INIT_STATUS (10_state.md R25).
-/

namespace Sys2Proof.Machine

/-- The code of a MachineStatus (R81). -/
def statusCode : MachineStatus → BitVec 3
  | .powerOff => 0
  | .autoRunning => 1
  | .autoIdle => 2
  | .menuRunning => 3
  | .menuIdle => 4
  | .stopped => 5

/-- The MachineStatus of a code; 6 and 7 have none (R81). -/
def statusOfCode (c : BitVec 3) : Option MachineStatus :=
  match c.toNat with
  | 0 => some .powerOff
  | 1 => some .autoRunning
  | 2 => some .autoIdle
  | 3 => some .menuRunning
  | 4 => some .menuIdle
  | 5 => some .stopped
  | _ => none

/-- The code of an ERR_KIND (R191). -/
def kindCode : ErrKind → BitVec 3
  | .none => 0
  | .transport => 1
  | .decode => 2
  | .illegalCmd => 3

/-- The code of an ERR_REASON (R192). -/
def reasonCode : ErrReason → BitVec 2
  | .none => 0
  | .shortRead => 1
  | .lengthMismatch => 2

/-- The session parameters from a configured INIT_STATUS code: "A model given INIT_STATUS outside 0..5 refuses the
configuration" (R25). -/
def initOfCodes (status : BitVec 3) (weld : Bool) (addr : Half) : Except Refusal Config.Init :=
  match statusOfCode status with
  | some s => .ok { status := s, weld := weld, addr := addr }
  | none => .error (.initStatusOutOfRange status)

/-- The machine right after power-on, configured with these codes (R10, R25, R40). -/
def resetOfCodes (status : BitVec 3) (weld : Bool) (addr : Half) : Except Refusal State :=
  (initOfCodes status weld addr).map State.resetWith

end Sys2Proof.Machine
end

