-- ==== Sys2Proof/Machine/Records.lean ====
section
/-!
DEFINITION. The bus packing of event and error records (30_encoding.md R83, R87), for "a block that emits records on a bus".
The state keeps records as the typed values, as R83 says.
-/

namespace Sys2Proof.Machine

/-- One item of a packed record: a 32-bit word, a 64-bit binary64 encoding, or an opaque operand. -/
inductive BusItem where
  | word (w : Word)
  | dword (d : Dword)
  | time (t : TS)
  | detail (d : Detail)
  deriving DecidableEq, Repr

/-- KIND of an event record (R83); 3 is never produced. -/
def eventKind : EventRecord → BitVec 2
  | .measurement _ _ _ _ _ _ => 0
  | .statusChanged _ _ _ => 1
  | .wmStatusChanged _ _ _ => 2

/-- `EVHDR` (R83): KIND [1:0], status [4:2] (0 for kind 2), weld [5] (0 for kind 1), [15:6] = 0, id [31:16]. -/
def eventHeader (e : EventRecord) : Word :=
  match e with
  | .measurement _ _ status weld id _ => id ++ 0#10 ++ BitVec.ofBool weld ++ statusCode status ++ eventKind e
  | .statusChanged status id _ => id ++ 0#10 ++ 0#1 ++ statusCode status ++ eventKind e
  | .wmStatusChanged weld id _ => id ++ 0#10 ++ BitVec.ofBool weld ++ 0#3 ++ eventKind e

/-- An event record on a bus (R83): the header, for a Measurement U and I, then time. -/
def packEvent (e : EventRecord) : List BusItem :=
  .word (eventHeader e) ::
    match e with
    | .measurement U I _ _ _ time => U.toList.map .word ++ I.toList.map .dword ++ [.time time]
    | .statusChanged _ _ time => [.time time]
    | .wmStatusChanged _ _ time => [.time time]

/-- `ERRHDR` (R87): kind [2:0], reason [4:3], [7:5] = 0, cmd [15:8], time present [16], detail present [17],
[31:18] = 0. -/
def errorHeader (r : ErrorRecord) : Word :=
  0#14 ++ BitVec.ofBool r.detail.isSome ++ BitVec.ofBool r.time.isSome ++ r.cmd ++ 0#3 ++ reasonCode r.reason ++
    kindCode r.kind

/-- An error record on a bus (R87): the header, then time if present, then detail if present. -/
def packError (r : ErrorRecord) : List BusItem :=
  .word (errorHeader r) :: (r.time.toList.map .time ++ r.detail.toList.map .detail)

end Sys2Proof.Machine
end

