-- ==== Sys2Proof/Machine/HostRead.lean ====
section
/-!
DEFINITION. The host read map (10_state.md R34 to R39): reads of whole 32-bit words by word offset, without side effect.
-/

namespace Sys2Proof.Machine

/-- PARAM (R28, R35): {L, S, C, F}, a constant. -/
def paramWord : Word :=
  BitVec.ofNat 8 Config.L ++ BitVec.ofNat 8 Config.S ++ BitVec.ofNat 8 Config.C ++ BitVec.ofNat 8 Config.F

/-- SESSION (R36): {LAST_ADDR, 12'b0, PREV_WELD, PREV_STATUS}. -/
def sessionWord (s : State) : Word :=
  s.session.lastAddr ++ 0#12 ++ BitVec.ofBool s.session.prevWeld ++ statusCode s.session.prevStatus

/-- RESULT (R37): {24'b0, EV_COUNT, TEL_VALID, ERR_REASON, ERR_KIND}; TEL_VALID is a view of the latch's bit. -/
def resultWord (s : State) : Word :=
  0#24 ++ s.result.evCount ++ BitVec.ofBool s.telValid ++ reasonCode s.result.errReason ++ kindCode s.result.errKind

/-- `HostRead(off)` (R34): PARAM, SESSION, RESULT, TEL_F, TEL_D, TEL_ADDR (R38, whatever TEL_VALID is); other offsets below
0x40 read 0; an offset at or above 0x40 is refused (R39). -/
def hostRead (s : State) (off : Nat) : Except Refusal Word :=
  if off = 0x00 then .ok paramWord
  else if off = 0x01 then .ok (sessionWord s)
  else if off = 0x02 then .ok (resultWord s)
  else if h : 0x10 ≤ off ∧ off < 0x10 + Config.F then
    .ok (s.latch.floats[off - 0x10]'(by obtain ⟨h₁, h₂⟩ := h; simp only [Config.F] at *; omega))
  else if h : 0x20 ≤ off ∧ off < 0x20 + Config.C then
    .ok ((s.latch.dig[off - 0x20]'(by obtain ⟨h₁, h₂⟩ := h; simp only [Config.C] at *; omega)).setWidth 32)
  else if off = 0x28 then .ok (s.latch.addr.setWidth 32)
  else if off < 0x40 then .ok 0
  else .error (.hostReadOutOfRange off)

end Sys2Proof.Machine
end

