-- ==== Sys2Proof/Machine/Render.lean ====
section
/-!
DEFINITION. The host's rendering of event records to messages (43_event_output.md R170 to R180).
-/

namespace Sys2Proof.Machine

/-- The decimal digit of a number below 10. -/
def digitChar (n : Nat) : Char := Char.ofNat (48 + n % 10)

/-- The decimal digits of `n`, most significant first; `fuel` bounds their number. -/
def digitsAux : Nat → Nat → Text → Text
  | 0, _, acc => acc
  | fuel + 1, n, acc =>
    let acc := digitChar (n % 10) :: acc
    if n < 10 then acc else digitsAux fuel (n / 10) acc

/-- The decimal digits of `n` without leading zeros, "0" for zero. -/
def natText (n : Nat) : Text := digitsAux (Nat.log2 n + 1) n []

/-- Three decimal digits with leading zeros. -/
def threeDigits (n : Nat) : Text := [digitChar (n / 100), digitChar (n / 10), digitChar n]

/-- |real(x)| * 1000 rounded to the nearest integer, ties to even, for x = m * 2^e (R174). -/
def thousandths (m : Nat) (e : Int) : Nat := rneDiv (m * 1000 * 2 ^ e.toNat) (2 ^ (-e).toNat)

/-- `FMT3` of a finite value (R174): "-" for a negative value or -0, the whole part, ".", three digits. -/
def fixed3 (neg : Bool) (m : Nat) (e : Int) : Text :=
  let q := thousandths m e
  (if neg then ['-'] else []) ++ natText (q / 1000) ++ ['.'] ++ threeDigits (q % 1000)

/-- The datum of a pattern of either width. -/
def datum : FloatPattern → Datum
  | .single b => f32 b
  | .double b => f64 b

/-- `FMT3(x)` (R174), and the OPEN `FMT_NONFINITE(x)` of a NaN or an infinity (R175; log 15). -/
def fmt3 (x : FloatPattern) : Text :=
  match datum x with
  | .fin neg m e => fixed3 neg m e
  | .inf _ => Config.fmtNonfinite x
  | .nan => Config.fmtNonfinite x

/-- `StatusText(s)` (R176): the decimal digit of the code. -/
def statusText (s : MachineStatus) : Text := natText (statusCode s).toNat

/-- `WeldText(w)` (R177). -/
def weldText (w : Bool) : Text := if w then ['1'] else ['0']

/-- `IdText(a)` (R178): unsigned decimal without leading zeros. -/
def idText (a : Half) : Text := natText a.toNat

/-- Two decimal digits with leading zeros. -/
def twoDigits (n : Nat) : Text := [digitChar (n / 10), digitChar n]

/-- The seconds of a time, as far as its precision goes. -/
def secondText : Option (Fin 61 × List (Fin 10)) → Text
  | none => []
  | some (s, []) => ':' :: twoDigits s
  | some (s, d :: ds) => ':' :: (twoDigits s ++ ['.'] ++ (d :: ds).map fun d => digitChar d.val)

/-- An offset from UTC. -/
def offsetText : Config.Offset → Text
  | .utc => ['Z']
  | .numeric west h m => [if west then '-' else '+'] ++ twoDigits h ++ [':'] ++ twoDigits m

/-- A date and time with offset in ISO-8601 (R179). DESIGN CHOICE (log 14): the extended calendar form, as in R179's
example. -/
def isoText (z : Config.ZonedTime) : Text :=
  twoDigits (z.year / 100) ++ twoDigits (z.year % 100) ++ ['-'] ++ twoDigits (z.month + 1) ++ ['-'] ++
    twoDigits (z.day + 1) ++ ['T'] ++ twoDigits z.hour ++ [':'] ++ twoDigits z.minute ++ secondText z.second ++
    offsetText z.offset

/-- `TimeText(t)` (R179): ISO-8601 with offset, in the host's timezone TZ (log 14). -/
def timeText (t : TS) : Text := isoText (Config.zonedTime Config.tz t)

/-- A message: a JSON object of string values, as its key and value pairs. Their order stands for nothing (R180: "key order
and whitespace are left open"; log 16). -/
structure Message where
  fields : List (Text × Text)
  deriving DecidableEq, Repr

/-- Two messages are equal when they have the same keys and values (92_eei_decisions.md D30). -/
def sameMessage (a b : Message) : Bool := a.fields.isPerm b.fields

/-- The Measurement message (R171). -/
def measurementMessage (U : Config.PerWeld Word) (I : Config.PerWeld Dword) (status : MachineStatus)
    (weld : Bool) (id : Half) (time : TS) : Message :=
  { fields :=
      [("U0".toList, fmt3 (.single U[0])), ("U1".toList, fmt3 (.single U[1])),
       ("U2".toList, fmt3 (.single U[2])), ("U3".toList, fmt3 (.single U[3])),
       ("I0".toList, fmt3 (.double I[0])), ("I1".toList, fmt3 (.double I[1])),
       ("I2".toList, fmt3 (.double I[2])), ("I3".toList, fmt3 (.double I[3])),
       ("Status".toList, statusText status), ("WeldStatus".toList, weldText weld), ("ID".toList, idText id),
       ("Length".toList, "0".toList), ("Speed".toList, "0".toList),
       ("Time".toList, timeText time), ("Type".toList, "Measurement".toList)] }

/-- The StatusChanged message (R172). -/
def statusChangedMessage (status : MachineStatus) (id : Half) (time : TS) : Message :=
  { fields :=
      [("Status".toList, statusText status), ("ID".toList, idText id), ("Time".toList, timeText time),
       ("Type".toList, "StatusChanged".toList)] }

/-- The WMStatusChanged message (R173). -/
def wmStatusChangedMessage (weld : Bool) (id : Half) (time : TS) : Message :=
  { fields :=
      [("WeldStatus".toList, weldText weld), ("ID".toList, idText id), ("Time".toList, timeText time),
       ("Type".toList, "WMStatusChanged".toList)] }

/-- The message of an event record (R170). -/
def renderEvent : EventRecord → Message
  | .measurement U I status weld id time => measurementMessage U I status weld id time
  | .statusChanged status id time => statusChangedMessage status id time
  | .wmStatusChanged weld id time => wmStatusChangedMessage weld id time

end Sys2Proof.Machine
end

