-- ==== Sys2Proof/Machine/HostSide.lean ====
section
/-!
DEFINITION. The host's duties that the block's behaviour rests on (60_exceptions.md R204 to R211, 43_event_output.md R170,
R181 to R183, 70_reset_and_hazards.md R223), as functions of what the excluded transport, sender and clock answer.
-/

namespace Sys2Proof.Machine

/-- The host issues a command: its fields go on the port behind those already there, so a command issued while another has
not run is held (R208, R225; log 23). -/
def issue (i : Instr) (s : State) : State := { s with port := s.port ++ encode i }

/-- A call `ReadRegisterBlock(unitAddress, wordCount)` (R204). -/
structure ReadRequest where
  unitAddress : Nat
  wordCount : Nat
  deriving DecidableEq, Repr

/-- The call of one cycle: the configured unit address, and wordCount = L read from PARAM[31:24] (R204). -/
def readRequest (cfg : DeviceConfig) (param : Word) : ReadRequest :=
  { unitAddress := cfg.unitAddress, wordCount := (param.extractLsb' 24 8).toNat }

/-- What the transport answers (R204): the words as returned, or a TransportError (a failure or an elapsed timeout, R206)
with its detail. -/
inductive ReadOutcome where
  | block (words : List Half)
  | transportError (d : Detail)
  deriving DecidableEq, Repr

/-- The one command of a poll cycle (R159, R204): CYCLE with the words exactly as returned, or CYCLE_FAIL; `ts` is the
wall-clock time at cycle start (R207). More than 65535 words cannot be issued (R73; log 25). -/
def cycleCommand (ts : TS) : ReadOutcome → Except Refusal Instr
  | .block words =>
    if words.length < 65536 then .ok (.cycle (BitVec.ofNat 16 words.length) words ts)
    else .error (.tooManyWords words.length)
  | .transportError d => .ok (.cycleFail ts d)

/-- One poll cycle on a block (R159): the host issues the cycle's command and the block runs it. -/
def pollCycle (ts : TS) (r : ReadOutcome) (s : State) : Host.Outcome State Fault Refusal :=
  match cycleCommand ts r with
  | .ok i => step (issue i s)
  | .error e => .refused e

/-- The earliest start of the next cycle: fixed delay after the end of the current one (R205; log 24). -/
def nextCycleStart (cfg : DeviceConfig) (finish : Nat) : Nat := finish + cfg.pollPeriod

/-- An entry of the host's log (R211; log 26): an ERRQ record or a SendError, with the device name. -/
inductive LogEntry where
  | blockError (deviceName : Text) (r : ErrorRecord)
  | sendError (deviceName : Text) (m : Message) (d : Detail)
  deriving DecidableEq, Repr

/-- What `SendMessage(jsonPayload)` answers (R181). -/
inductive SendOutcome where
  | sent
  | sendError (d : Detail)
  deriving DecidableEq, Repr

/-- The messages the host passes to `SendMessage`: one per event record, in EVQ order (R170, R182). -/
def messagesOf (evs : List EventRecord) : List Message := evs.map renderEvent

/-- The log entries of the sends (R181): a SendError is logged with context and the host goes on with the next message; it
never retries and never tells the block. -/
def sendLog (cfg : DeviceConfig) : List (Message × SendOutcome) → List LogEntry
  | [] => []
  | (_, .sent) :: rest => sendLog cfg rest
  | (m, .sendError d) :: rest => .sendError cfg.deviceName m d :: sendLog cfg rest

/-- The log entries of the error stream (R211): every record, with the device name; none is sent as a message (R183). -/
def errorLog (cfg : DeviceConfig) (errs : List ErrorRecord) : List LogEntry := errs.map (.blockError cfg.deviceName)

/-- The host's boot steps (R223). -/
inductive BootStep where
  | loadConfiguration
  | register
  | readParam
  | startSchedule
  deriving DecidableEq, Repr

/-- "Before the first cycle of a device the host must, in this order" (R223). DESIGN CHOICE (log 31): of the two ways that
step (2) allows, to reset the instance or to issue REGISTER, the host takes REGISTER. -/
def bootOrder : List BootStep := [.loadConfiguration, .register, .readParam, .startSchedule]

/-- What boot does with the block (R223): REGISTER (log 31), then the read of PARAM that gives wordCount; the answer is the block's
state and the transport call of every cycle. -/
def boot (cfg : DeviceConfig) (s : State) : Except Refusal (State × ReadRequest) :=
  match step (issue .register s) with
  | .next s' => (hostRead s' 0x00).map fun p => (s', readRequest cfg p)
  | .refused e => .error e
  | .fault f => nomatch f

/-- The block instances of the host's devices (20_memory.md R68, R209): one state each, nothing shared (log 22). DESIGN CHOICE (log 29):
instances whose free-value counters are equal take equal free values. -/
structure Fleet where
  blocks : List State
  deriving DecidableEq, Repr

/-- One step of instance `k`; the other instances keep their states (R68, R209). -/
def stepInstance (k : Nat) (f : Fleet) : Host.Outcome Fleet Fault Refusal :=
  match f.blocks[k]? with
  | none => .next f
  | some s =>
    match step s with
    | .next s' => .next { blocks := f.blocks.set k s' }
    | .fault x => .fault x
    | .refused r => .refused r

end Sys2Proof.Machine
end

