-- ==== Sys2Proof/Safety.lean ====
section
/-!
DEFINITION. What counts as a sound state, a typed host and an observable difference, in the terms the claims use.
-/

namespace Sys2Proof.Machine

/-- TEL_VALID says the latch holds the telemetry of the last delivered block (10_state.md R26). -/
def LatchCoherent (s : State) : Prop := s.telValid = true → decodeBlock s.w s.blkLen = .ok s.latch

/-- A reserved CMD byte (30_encoding.md R75). -/
def reservedCmd (c : Byte) : Bool := cmdRsv c != 0 || decide (5 ≤ (cmdOp c).toNat)

/-- An error record as the commands write it (30_encoding.md R87, 60_exceptions.md R191 to R193, R196): the reason goes with
DecodeError only, the CMD byte is that of a command that can raise the kind, time and detail are present where the command
has them. -/
def LegalError (r : ErrorRecord) : Prop :=
  match r.kind with
  | .none => False
  | .transport => r.reason = .none ∧ r.cmd = 0x03 ∧ r.time.isSome ∧ r.detail.isSome
  | .decode => r.reason ≠ .none ∧ (r.cmd = 0x02 ∧ r.time.isSome ∨ r.cmd = 0x04 ∧ r.time = none) ∧ r.detail = none
  | .illegalCmd => r.reason = .none ∧ reservedCmd r.cmd = true ∧ r.time = none ∧ r.detail = none

/-- RESULT as the commands write it: a reason with DecodeError only (R192), no events with an error (R195), TEL_VALID not set
beside TransportError or DecodeError (R195), and an error that the last record of ERRQ also names (R195, R211: "No error is
ever silently swallowed without a log record"). -/
def LegalResult (s : State) : Prop :=
  (s.result.errReason ≠ .none ↔ s.result.errKind = .decode) ∧
  (s.result.errKind ≠ .none → s.result.evCount = 0) ∧
  (s.telValid = true → clearsTelValid s.result.errKind = false) ∧
  (s.result.errKind ≠ .none →
    ∃ r, s.errq.getLast? = some r ∧ r.kind = s.result.errKind ∧ r.reason = s.result.errReason)

/-- The records of one successful cycle (41_classifier.md R134): the Measurement, then StatusChanged and WMStatusChanged
where produced, all with the Measurement's status, flag, id and time. -/
def CycleGroup (g : List EventRecord) : Prop :=
  ∃ U I status weld id time, ∃ sc wc : Bool,
    g = EventRecord.measurement U I status weld id time ::
      ((if sc then [EventRecord.statusChanged status id time] else []) ++
        (if wc then [EventRecord.wmStatusChanged weld id time] else []))

/-- EVQ is the records of successful cycles, one after another (R30, R63). -/
def GroupedEvents (q : List EventRecord) : Prop := ∃ gs : List (List EventRecord), (∀ g ∈ gs, CycleGroup g) ∧ q = gs.flatten

/-- A sound state of the block. -/
structure Inv (s : State) : Prop where
  latch : LatchCoherent s
  result : LegalResult s
  errors : ∀ r ∈ s.errq, LegalError r
  events : GroupedEvents s.evq

/-- The port holds whole well-formed commands, as a host that presents typed records leaves it (R70, R73). -/
def TypedPort (s : State) : Prop := ∃ is : List Instr, (∀ i ∈ is, i.wellFormed = true) ∧ s.port = is.flatMap encode

/-- Two states that differ at most in W and BLK_LEN (R22: "the retained values are never observable"). -/
def SameButBuffer (s t : State) : Prop := { s with w := t.w, blkLen := t.blkLen } = t

/-- Two outcomes that agree in kind, with next states related by `R`. -/
def SameOutcome (R : State → State → Prop) : Host.Outcome State Fault Refusal → Host.Outcome State Fault Refusal → Prop
  | .next s, .next t => R s t
  | .refused a, .refused b => a = b
  | _, _ => False

/-- A text of exactly `n` decimal digits that write the number `v`. -/
def WritesNumber (n v : Nat) (t : Text) : Prop := t.length = n ∧ someDigits 10 decDigit t = some v

/-- The codes of MachineStatus (30_encoding.md R81); 6 and 7 are never produced. -/
def StatusCodesAsGiven : Prop :=
  statusCode .powerOff = 0 ∧ statusCode .autoRunning = 1 ∧ statusCode .autoIdle = 2 ∧ statusCode .menuRunning = 3 ∧
  statusCode .menuIdle = 4 ∧ statusCode .stopped = 5 ∧ ∀ s, (statusCode s).toNat ≤ 5

/-- The codes of ERR_KIND and ERR_REASON (60_exceptions.md R191, R192); kinds 4 to 7 and reason 3 are never produced. -/
def ErrorCodesAsGiven : Prop :=
  kindCode .none = 0 ∧ kindCode .transport = 1 ∧ kindCode .decode = 2 ∧ kindCode .illegalCmd = 3 ∧
  (∀ k, (kindCode k).toNat ≤ 3) ∧
  reasonCode .none = 0 ∧ reasonCode .shortRead = 1 ∧ reasonCode .lengthMismatch = 2 ∧ ∀ r, (reasonCode r).toNat ≤ 2

/-- A step that does not stop. -/
def Continues (o : Host.Outcome State Fault Refusal) : Prop := ∃ t, o = .next t

end Sys2Proof.Machine
end

