-- ==== Sys2Proof/Certificates/Slice0/Obligations.lean ====
section
/-!
DEFINITION. The statements for the provers. Rule numbers are those of spec/.
-/

open Sys2Proof Sys2Proof.Machine

/-! ### The command port -/

/-- The port decoder reads back every well-formed command from its fields and leaves what follows them (R73, R74). -/
def Obligations.DecodeReadsBackEveryEncoding : Prop :=
  ∀ (i : Instr) (rest : List PortField), i.wellFormed = true → decodePort (encode i ++ rest) = .ok (i, rest)

/-- The port decoder answers nothing but well-formed commands, and takes exactly their fields (R73, R74). -/
def Obligations.DecodeTakesExactlyOneEncoding : Prop :=
  ∀ (fs rest : List PortField) (i : Instr),
    decodePort fs = .ok (i, rest) → i.wellFormed = true ∧ fs = encode i ++ rest

/-- A CMD byte of 0x05 or more is illegal whatever follows it, takes no operands, and performs the IllegalCommand
outcome and nothing else (R157). -/
def Obligations.ReservedBytesPerformIllegalCommand : Prop :=
  ∀ (c : Byte) (rest : List PortField), 5 ≤ c.toNat →
    ∃ i : Instr, decodePort (.byte c :: rest) = .ok (i, rest) ∧
      ∀ s : State, exec i s =
        .next { s with
          result := { errKind := .illegalCmd, errReason := .none, evCount := 0 }
          errq := s.errq ++ [{ kind := .illegalCmd, reason := .none, cmd := c, time := none, detail := none }] }

/-- Every CMD byte matches exactly one row of the command table, and the decoder answers a command of that row
(R91). -/
def Obligations.TableRowsPartitionCommandBytes : Prop :=
  (∀ c : Byte, ∃! k : Fin 9, rowMatches (opcodeRows[k.val]'k.isLt) c = true) ∧
  ∀ (c : Byte) (fs rest : List PortField) (i : Instr), decodePort (.byte c :: fs) = .ok (i, rest) →
    (opcodeRows[i.row]?).map (rowMatches · c) = some true

/-- The CMD bytes of R72, written out, decode to their commands. -/
def Obligations.WrittenCommandsDecode : Prop :=
  decodePort [.byte 0b00000000] = .ok (.nop, []) ∧
  decodePort [.byte 0b00000001] = .ok (.register, []) ∧
  decodePort [.byte 0b00000010, .half 2, .half 0x9A99, .half 0x193F, .time ⟨['T']⟩]
    = .ok (.cycle 2 [0x9A99, 0x193F] ⟨['T']⟩, []) ∧
  decodePort [.byte 0b00000011, .time ⟨['T']⟩, .detail ⟨['d']⟩] = .ok (.cycleFail ⟨['T']⟩ ⟨['d']⟩, []) ∧
  decodePort [.byte 0b00000100, .half 1, .half 0x1234] = .ok (.decode 1 [0x1234], []) ∧
  decodePort [.byte 0b00000101] = .ok (.illegalOp5, []) ∧
  decodePort [.byte 0b00000110] = .ok (.illegalOp6, []) ∧
  decodePort [.byte 0b00000111] = .ok (.illegalOp7, []) ∧
  decodePort [.byte 0b00001010, .half 0] = .ok (.illegalRsv 0x0A, [.half 0])

/-- Where the port's fields begin with a command, a step is that command's execution on the state with those fields
taken (R17, R56); a command comes well-formed. -/
def Obligations.StepRunsTheDecodedCommand : Prop :=
  ∀ (s : State) (i : Instr) (rest : List PortField), decodePort s.port = .ok (i, rest) →
    step s = exec i { s with port := rest }

/-- With nothing on the port a step changes nothing. The model's choice (log 2), after the spec's "between commands it
holds its state unchanged indefinitely". -/
def Obligations.EmptyPortStepHoldsTheState : Prop :=
  ∀ s : State, s.port = [] → step s = .next s

/-- A host that presents whole typed commands is never refused: every step continues, and the port still holds whole
typed commands (R70, R199). -/
def Obligations.TypedHostIsNeverRefused : Prop :=
  ∀ s : State, TypedPort s → ∃ t, step s = .next t ∧ TypedPort t

/-! ### The commands -/

/-- NOP leaves every element of the state unchanged (R152). -/
def Obligations.NopChangesNothing : Prop :=
  ∀ s : State, exec .nop s = .next s

/-- REGISTER gives every element but W its reset value and keeps both streams (R153); nothing is said of W, which R153
leaves unspecified. That the port is kept, with the commands behind REGISTER, is the model's choice (log 30). -/
def Obligations.RegisterResetsTheBlock : Prop :=
  ∀ s : State, ∃ t, exec .register s = .next t ∧
    t.blkLen = 0 ∧
    t.session = { prevStatus := s.init.status, prevWeld := s.init.weld, lastAddr := s.init.addr } ∧
    (∀ i : Fin 12, t.latch.floats[i] = 0) ∧ (∀ j : Fin 8, t.latch.dig[j] = 0) ∧ t.latch.addr = 0 ∧
    t.telValid = false ∧
    t.result = { errKind := .none, errReason := .none, evCount := 0 } ∧
    t.evq = s.evq ∧ t.errq = s.errq ∧ t.port = s.port ∧ t.init = s.init

/-- What a 29-word block leaves in W, BLK_LEN and the latch: each float from its word pair (R104), each digital
channel from its word's byte (R107), the address (R108). -/
def Obligations.DecodeCommandLatchesEveryChannel : Prop :=
  ∀ (len : Half) (v : List Half) (s : State), len.toNat = 29 → v.length = 29 →
    ∃ t, exec (.decode len v) s = .next t ∧
      t.blkLen = len ∧ (∀ k : Fin 29, t.w[k] = v.getD k 0) ∧
      (∀ i : Fin 12, t.latch.floats[i] =
        lo8 (v.getD (2 * i + 1) 0) ++ hi8 (v.getD (2 * i + 1) 0) ++ lo8 (v.getD (2 * i) 0) ++ hi8 (v.getD (2 * i) 0)) ∧
      (∀ c : Fin 8, t.latch.dig[c] =
        if c.val % 2 = 0 then lo8 (v.getD (24 + c / 2) 0) else hi8 (v.getD (24 + c / 2) 0)) ∧
      t.latch.addr = v.getD 28 0 ∧
      t.telValid = true ∧
      t.result = { errKind := .none, errReason := .none, evCount := 0 } ∧
      t.session = s.session ∧ t.evq = s.evq ∧ t.errq = s.errq ∧ t.port = s.port ∧ t.init = s.init

/-- DECODE of a block of any other length is the DecodeError outcome (R102, R156, R195): the words it holds go to W,
TEL_VALID is cleared, RESULT and one error record name the reason, nothing else changes. -/
def Obligations.DecodeCommandRejectsOtherLengths : Prop :=
  ∀ (len : Half) (v : List Half) (s : State), len.toNat ≠ 29 →
    ∃ t, exec (.decode len v) s = .next t ∧
      t = { s with
        blkLen := len
        w := t.w
        telValid := false
        result := { errKind := .decode, errReason := if len.toNat < 29 then .shortRead else .lengthMismatch, evCount := 0 }
        errq := s.errq ++
          [{ kind := .decode, reason := if len.toNat < 29 then .shortRead else .lengthMismatch, cmd := 0x04, time := none,
             detail := none }] } ∧
      (v.length = len.toNat → ∀ k : Fin 29, t.w[k] = v.getD k s.w[k])

/-- CYCLE of a 29-word block (R154): latch and W as for DECODE, the classifier's records appended in order, the commit
of its status, flag and the block's address, RESULT with the number of records. -/
def Obligations.CycleRunsTheWholePipeline : Prop :=
  ∀ (len : Half) (v : List Half) (ts : TS) (s : State), len.toNat = 29 → v.length = 29 →
    ∃ t, exec (.cycle len v ts) s = .next t ∧
      t.blkLen = len ∧ (∀ k : Fin 29, t.w[k] = v.getD k 0) ∧
      (∀ i : Fin 12, t.latch.floats[i] =
        lo8 (v.getD (2 * i + 1) 0) ++ hi8 (v.getD (2 * i + 1) 0) ++ lo8 (v.getD (2 * i) 0) ++ hi8 (v.getD (2 * i) 0)) ∧
      (∀ c : Fin 8, t.latch.dig[c] =
        if c.val % 2 = 0 then lo8 (v.getD (24 + c / 2) 0) else hi8 (v.getD (24 + c / 2) 0)) ∧
      t.latch.addr = v.getD 28 0 ∧
      t.telValid = true ∧
      t.evq = s.evq ++ (classify s.freeCtr t.latch s.session.prevStatus s.session.prevWeld ts).events ∧
      t.session.prevStatus = (classify s.freeCtr t.latch s.session.prevStatus s.session.prevWeld ts).status ∧
      t.session.prevWeld = (classify s.freeCtr t.latch s.session.prevStatus s.session.prevWeld ts).weld ∧
      t.session.lastAddr = v.getD 28 0 ∧
      t.result.errKind = .none ∧ t.result.errReason = .none ∧
      s.evq.length + t.result.evCount.toNat = t.evq.length ∧
      t.errq = s.errq ∧ t.port = s.port ∧ t.init = s.init

/-- CYCLE of a block of any other length is the DecodeError outcome (R102, R154, R195, R137): no event, no latch
write, no commit. -/
def Obligations.CycleRejectsOtherLengths : Prop :=
  ∀ (len : Half) (v : List Half) (ts : TS) (s : State), len.toNat ≠ 29 →
    ∃ t, exec (.cycle len v ts) s = .next t ∧
      t = { s with
        blkLen := len
        w := t.w
        telValid := false
        result := { errKind := .decode, errReason := if len.toNat < 29 then .shortRead else .lengthMismatch, evCount := 0 }
        errq := s.errq ++
          [{ kind := .decode, reason := if len.toNat < 29 then .shortRead else .lengthMismatch, cmd := 0x02, time := some ts,
             detail := none }] } ∧
      (v.length = len.toNat → ∀ k : Fin 29, t.w[k] = v.getD k s.w[k])

/-- CYCLE_FAIL is the TransportError outcome (R155): TEL_VALID cleared, RESULT and one error record written, nothing
else. -/
def Obligations.CycleFailLogsTheTransportError : Prop :=
  ∀ (ts : TS) (d : Detail) (s : State),
    exec (.cycleFail ts d) s =
      .next { s with
        telValid := false
        result := { errKind := .transport, errReason := .none, evCount := 0 }
        errq := s.errq ++
          [{ kind := .transport, reason := .none, cmd := 0x03, time := some ts, detail := some d }] }

/-- Each of the four reserved rows performs the IllegalCommand outcome (R157), with its own CMD byte in the record. -/
def Obligations.ReservedCommandsComplete : Prop :=
  ∀ (i : Instr) (s : State), i = .illegalOp5 ∨ i = .illegalOp6 ∨ i = .illegalOp7 ∨ (∃ c, i = .illegalRsv c) →
    exec i s =
      .next { s with
        result := { errKind := .illegalCmd, errReason := .none, evCount := 0 }
        errq := s.errq ++ [{ kind := .illegalCmd, reason := .none, cmd := i.cmd, time := none, detail := none }] }

/-! ### Reset -/

/-- The values of R40 at power-on, for every value of the parameters: everything the spec gives a value (W, which it
leaves unspecified, is not spoken of); `State.reset` is the machine of the default parameters (R10, log 11). -/
def Obligations.PowerOnValues : Prop :=
  (∀ i : Config.Init,
    (State.resetWith i).blkLen = 0 ∧
    (State.resetWith i).session = { prevStatus := i.status, prevWeld := i.weld, lastAddr := i.addr } ∧
    (∀ k : Fin 12, (State.resetWith i).latch.floats[k] = 0x00000000) ∧
    (∀ j : Fin 8, (State.resetWith i).latch.dig[j] = 0x00) ∧
    (State.resetWith i).latch.addr = 0x0000 ∧ (State.resetWith i).telValid = false ∧
    (State.resetWith i).result = { errKind := .none, errReason := .none, evCount := 0 } ∧
    (State.resetWith i).evq = [] ∧ (State.resetWith i).errq = [] ∧
    hostRead (State.resetWith i) 0x00 = .ok 0x1D01080C) ∧
  State.reset.session = { prevStatus := .powerOff, prevWeld := false, lastAddr := 0x0000 } ∧
  State.reset = State.resetWith State.reset.init

/-- An external reset of a running instance and REGISTER have one effect (R221): the same state, with nothing appended
to or removed from the streams, and equal to the power-on state of the machine's parameters but for W, the streams and
the port. That an external reset keeps the port is the model's choice (log 30), and so is that W becomes the same free
value in both (log 29). -/
def Obligations.RegisterHasTheEffectOfReset : Prop :=
  ∀ s : State, exec .register s = .next (resetBlock s) ∧
    (resetBlock s).evq = s.evq ∧ (resetBlock s).errq = s.errq ∧
    { resetBlock s with w := State.reset.w, evq := [], errq := [], port := [], freeCtr := State.reset.freeCtr }
      = State.resetWith s.init

/-- A machine is configured with the codes of its parameters (R10, R25): a status code in 0..5 gives the power-on state
of exactly those parameters, whose session reads as the codes; any other is refused by name. -/
def Obligations.ParametersComeFromTheirCodes : Prop :=
  ∀ (status : BitVec 3) (weld : Bool) (addr : Half),
    (status.toNat ≤ 5 → ∃ i : Config.Init, resetOfCodes status weld addr = .ok (State.resetWith i) ∧
      statusCode i.status = status ∧ i.weld = weld ∧ i.addr = addr ∧ (State.resetWith i).init = i ∧
      hostRead (State.resetWith i) 0x01 = .ok (addr ++ 0#12 ++ BitVec.ofBool weld ++ status)) ∧
    (5 < status.toNat → resetOfCodes status weld addr = .error (.initStatusOutOfRange status))

/-- No step writes the parameters (R10). -/
def Obligations.ParametersAreNeverWritten : Prop :=
  ∀ s t : State, step s = .next t → t.init = s.init

/-- The first successful CYCLE after REGISTER compares with INIT_STATUS and INIT_WELD (R138 e, which the spec
derives), whatever they are: StatusChanged exactly where the derived status is not INIT_STATUS, WMStatusChanged
exactly where the flag is not INIT_WELD. -/
def Obligations.FirstCycleComparesWithTheParameters : Prop :=
  ∀ (s t u : State) (len : Half) (v : List Half) (ts : TS), len.toNat = 29 →
    exec .register s = .next t → exec (.cycle len v ts) t = .next u →
    ∃ U I, u.evq = s.evq ++ (EventRecord.measurement U I u.session.prevStatus u.session.prevWeld u.session.lastAddr ts ::
      ((if u.session.prevStatus ≠ s.init.status then
          [EventRecord.statusChanged u.session.prevStatus u.session.lastAddr ts] else []) ++
        (if u.session.prevWeld ≠ s.init.weld then
          [EventRecord.wmStatusChanged u.session.prevWeld u.session.lastAddr ts] else [])))

/-- The first successful CYCLE after REGISTER in a machine of the default parameters (R222, which the spec derives;
log 11): StatusChanged exactly where the derived status is not PowerOff, WMStatusChanged exactly where welding is
active. -/
def Obligations.FirstCycleComparesWithTheDefaults : Prop :=
  ∀ (s t u : State) (len : Half) (v : List Half) (ts : TS), len.toNat = 29 → s.init = State.reset.init →
    exec .register s = .next t → exec (.cycle len v ts) t = .next u →
    ∃ U I, u.evq = s.evq ++ (EventRecord.measurement U I u.session.prevStatus u.session.prevWeld u.session.lastAddr ts ::
      ((if u.session.prevStatus ≠ .powerOff then
          [EventRecord.statusChanged u.session.prevStatus u.session.lastAddr ts] else []) ++
        (if u.session.prevWeld = true then [EventRecord.wmStatusChanged true u.session.lastAddr ts] else [])))

/-! ### Decoder -/

/-- The remap is a bijection between word pairs and patterns, and `Enc` is its inverse on both sides (R111, which the
spec derives from R104 and R106). -/
def Obligations.RemapIsABijection : Prop :=
  (∀ b : Word, remap (unmap b).1 (unmap b).2 = b) ∧ ∀ lo hi : Half, unmap (remap lo hi) = (lo, hi)

/-- The bits of a float's pattern `b` in its two words (R77), the equivalent concatenations, and the sign, exponent
and fraction read from the words. -/
def Obligations.FloatFieldsOfTheWordPair : Prop :=
  ∀ (lo hi : Half) (b : Word), b = remap lo hi →
    lo.extractLsb' 8 8 = b.extractLsb' 0 8 ∧ lo.extractLsb' 0 8 = b.extractLsb' 8 8 ∧
    hi.extractLsb' 8 8 = b.extractLsb' 16 8 ∧ hi.extractLsb' 0 8 = b.extractLsb' 24 8 ∧
    b = lo8 hi ++ hi8 hi ++ lo8 lo ++ hi8 lo ∧ b = bswap16 hi ++ bswap16 lo ∧
    b.getLsbD 31 = hi.getLsbD 7 ∧
    b.extractLsb' 23 8 = hi.extractLsb' 0 7 ++ hi.extractLsb' 15 1 ∧
    b.extractLsb' 0 23 = hi.extractLsb' 8 7 ++ lo.extractLsb' 0 8 ++ lo.extractLsb' 8 8

/-- The words BLOCK expands to decode to the floats, digital channels and address it was given (R89, which the spec
derives from R104, R107 and R108). -/
def Obligations.BlockOperandDecodesBack : Prop :=
  ∀ (f : Vector Word 12) (d : Vector Byte 8) (a : Half) (s : State),
    (blockWords f d a).length = 29 ∧
    ∃ t, exec (.decode 29 (blockWords f d a)) s = .next t ∧ t.latch = { floats := f, dig := d, addr := a }

/-! ### Classifier -/

/-- The status of a classification is the effective-priority table (R128, which the spec derives from R127) applied to
digital channels 5, 6 and 7 and the prior status; and DeriveStatus is that table. -/
def Obligations.StatusFollowsEffectivePriority : Prop :=
  (∀ (d5 d6 d7 : Byte) (prev : MachineStatus),
    deriveStatus d5 d6 d7 prev =
      if d6 = 2 then .menuRunning
      else if d6 = 1 then .menuIdle
      else if d5 = 2 then .autoRunning
      else if d5 = 1 then .autoIdle
      else if d7 ≠ 0 then .stopped
      else if d5 = 0 ∧ d6 = 0 ∧ d7 = 0 then .powerOff
      else prev) ∧
  ∀ (n : Nat) (tel : Telemetry) (prev : MachineStatus) (pw : Bool) (ts : TS),
    (classify n tel prev pw ts).status =
      if tel.dig[6] = 2 then .menuRunning
      else if tel.dig[6] = 1 then .menuIdle
      else if tel.dig[5] = 2 then .autoRunning
      else if tel.dig[5] = 1 then .autoIdle
      else if tel.dig[7] ≠ 0 then .stopped
      else if tel.dig[5] = 0 ∧ tel.dig[6] = 0 ∧ tel.dig[7] = 0 then .powerOff
      else prev

/-- The derived status depends on digital channels 5, 6, 7 and the prior status alone (R130). -/
def Obligations.StatusReadsOnlyStatusChannels : Prop :=
  ∀ (n n' : Nat) (tel tel' : Telemetry) (ps : MachineStatus) (pw pw' : Bool) (ts ts' : TS),
    tel.dig[5] = tel'.dig[5] → tel.dig[6] = tel'.dig[6] → tel.dig[7] = tel'.dig[7] →
    (classify n tel ps pw ts).status = (classify n' tel' ps pw' ts').status

/-- The current of a float (R123, which the spec derives from R122 and IEEE 754): exactly 50 times its real value with
its sign, an infinity for an infinity, for a NaN the free NaN `nan`, whichever NaN that is (log 8). -/
def Obligations.CurrentIsExactlyFiftyTimes : Prop :=
  ∀ (nan : Dword) (b : Word), f64 nan = .nan →
    (∀ neg m e, f32 b = .fin neg m e →
      ∃ m' e', f64 (scaleCurrent nan b) = .fin neg m' e' ∧ real neg m' e' = 50 * real neg m e) ∧
    (∀ neg, f32 b = .inf neg → f64 (scaleCurrent nan b) = .inf neg) ∧
    (f32 b = .nan → scaleCurrent nan b = nan)

/-- The weld test on the current is the comparator on the pattern, for every pattern (R125, which the spec derives
from R122, R123 and R124). -/
def Obligations.WeldTestIsThePatternComparator : Prop :=
  ∀ (nan : Dword) (b : Word), f64 nan = .nan →
    (weldTest (scaleCurrent nan b) = true ↔ 0x3F19999A ≤ b.toNat ∧ b.toNat ≤ 0x7F800000)

/-- The welding-active flag is recomputed from floats 0 to 3 alone (R126): active exactly where one of the four
patterns is in the comparator's range (R125, which the spec derives), whatever the prior state. -/
def Obligations.WeldFlagIsAnyOfFourCurrents : Prop :=
  ∀ (n : Nat) (tel : Telemetry) (ps : MachineStatus) (pw : Bool) (ts : TS),
    ((classify n tel ps pw ts).weld = true ↔
      ∃ k : Fin 4, 0x3F19999A ≤ (tel.floats[k.val]).toNat ∧ (tel.floats[k.val]).toNat ≤ 0x7F800000)

/-- The free value of a NaN current can be any binary64 NaN, and only a NaN (93_implementation_defined.md item 5,
log 8): every NaN is some value of `nan64`, each of its values is a NaN, and the current of a NaN float is the free
one. -/
def Obligations.FreeNaNRangesOverAllNaNs : Prop :=
  (∀ b : Dword, f64 b = .nan → ∃ neg fr, nan64 neg fr = b) ∧ (∀ neg fr, f64 (nan64 neg fr) = .nan) ∧
  ∀ (n : Nat) (tel : Telemetry) (k : Fin 4), f32 tel.floats[k.val] = .nan →
    current n tel k = freeNaN n k ∧ f64 (freeNaN n k) = .nan

/-- The records of one classification, in order (R131 to R134): Measurement with the voltages (floats 8 to 11)
unchanged and the currents, then StatusChanged and WMStatusChanged exactly where the value differs from the prior
one. -/
def Obligations.ClassifyEmitsMeasurementThenEdges : Prop :=
  ∀ (n : Nat) (tel : Telemetry) (ps : MachineStatus) (pw : Bool) (ts : TS),
    ∃ U I s w, (classify n tel ps pw ts).status = s ∧ (classify n tel ps pw ts).weld = w ∧
      (∀ k : Fin 4, U[k.val] = tel.floats[8 + k.val]) ∧
      (∀ k : Fin 4, I[k.val] = scaleCurrent (freeNaN n k) tel.floats[k.val]) ∧
      (classify n tel ps pw ts).events =
        EventRecord.measurement U I s w tel.addr ts ::
          ((if s ≠ ps then [EventRecord.statusChanged s tel.addr ts] else []) ++
            (if w ≠ pw then [EventRecord.wmStatusChanged w tel.addr ts] else []))

/-- Two consecutive successful cycles (R138 a, b, c, which the spec derives from R132, R133, R136, R137): the second
appends exactly one Measurement, a StatusChanged exactly where its status differs from the first's, a WMStatusChanged
exactly where its flag does. -/
def Obligations.SecondCycleReportsOnlyChanges : Prop :=
  ∀ (s t u : State) (v v' : List Half) (ts ts' : TS),
    exec (.cycle 29 v ts) s = .next t → exec (.cycle 29 v' ts') t = .next u →
    ∃ U I, u.evq = t.evq ++ (EventRecord.measurement U I u.session.prevStatus u.session.prevWeld u.session.lastAddr ts' ::
      ((if u.session.prevStatus ≠ t.session.prevStatus then
          [EventRecord.statusChanged u.session.prevStatus u.session.lastAddr ts'] else []) ++
        (if u.session.prevWeld ≠ t.session.prevWeld then
          [EventRecord.wmStatusChanged u.session.prevWeld u.session.lastAddr ts'] else [])))

/-- Every command but REGISTER and a successful CYCLE is invisible to the edge detector (R137; R138 d, which the spec
derives): a whole block's CYCLE emits and commits the same with the command before it as without. The two runs take the
same free NaNs, the model's choice (log 29). -/
def Obligations.FailedCyclesAreInvisibleToTheEdgeDetector : Prop :=
  ∀ (i : Instr) (s f t u : State) (v : List Half) (ts : TS), v.length = 29 →
    i ≠ .register → (∀ len words ts', i = .cycle len words ts' → len.toNat ≠ 29) →
    exec i s = .next f → exec (.cycle 29 v ts) f = .next t → exec (.cycle 29 v ts) s = .next u →
    t.evq = u.evq ∧ t.session = u.session ∧ t.latch = u.latch ∧ t.result = u.result

/-! ### Errors and whole-machine rules -/

/-- What an error does (R195, R196): RESULT with EV_COUNT 0, TEL_VALID cleared for TransportError and DecodeError
only, exactly one error record, which names the kind, the reason and the command's CMD byte; never the session, the
latch or EVQ. -/
def Obligations.ErrorOutcomeIsPrecise : Prop :=
  ∀ (i : Instr) (s t : State), i ≠ .nop → exec i s = .next t → t.result.errKind ≠ .none →
    t.result.evCount = 0 ∧ t.session = s.session ∧ t.latch = s.latch ∧ t.evq = s.evq ∧ t.port = s.port ∧
    t.telValid = (if t.result.errKind = .illegalCmd then s.telValid else false) ∧
    ∃ r, t.errq = s.errq ++ [r] ∧ r.kind = t.result.errKind ∧ r.reason = t.result.errReason ∧ r.cmd = i.cmd

/-- Which command raises which error (R193, which the spec derives from R152 to R157): NOP and REGISTER none, CYCLE
and DECODE a DecodeError exactly where the block has not 29 words (whatever the words are), CYCLE_FAIL a
TransportError, a reserved CMD an IllegalCommand. -/
def Obligations.EachCommandRaisesItsErrors : Prop :=
  ∀ (i : Instr) (s t : State), exec i s = .next t →
    match i with
    | .nop => t.errq = s.errq
    | .register => t.errq = s.errq ∧ t.result.errKind = .none
    | .cycle len _ _ =>
      if len.toNat = 29 then t.errq = s.errq ∧ t.result.errKind = .none
      else t.errq.length = s.errq.length + 1 ∧ t.result.errKind = .decode ∧
        t.result.errReason = if len.toNat < 29 then .shortRead else .lengthMismatch
    | .cycleFail _ _ => t.errq.length = s.errq.length + 1 ∧ t.result.errKind = .transport
    | .decode len _ =>
      if len.toNat = 29 then t.errq = s.errq ∧ t.result.errKind = .none
      else t.errq.length = s.errq.length + 1 ∧ t.result.errKind = .decode ∧
        t.result.errReason = if len.toNat < 29 then .shortRead else .lengthMismatch
    | .illegalOp5 => t.errq.length = s.errq.length + 1 ∧ t.result.errKind = .illegalCmd
    | .illegalOp6 => t.errq.length = s.errq.length + 1 ∧ t.result.errKind = .illegalCmd
    | .illegalOp7 => t.errq.length = s.errq.length + 1 ∧ t.result.errKind = .illegalCmd
    | .illegalRsv _ => t.errq.length = s.errq.length + 1 ∧ t.result.errKind = .illegalCmd

/-- The streams only grow (R30, R63): a step appends at most three event records or at most one error record, never
both, and removes and reorders none. -/
def Obligations.StreamsOnlyGrow : Prop :=
  ∀ s t : State, step s = .next t →
    ∃ evs errs, t.evq = s.evq ++ evs ∧ t.errq = s.errq ++ errs ∧ evs.length ≤ 3 ∧ errs.length ≤ 1 ∧ (evs = [] ∨ errs = [])

/-- EV_COUNT is the number of event records the command emitted (R27), for every command but NOP; only a successful
CYCLE emits, and then 1 to 3 records (R30). -/
def Obligations.EventCountIsTheNumberEmitted : Prop :=
  ∀ (i : Instr) (s t : State), i ≠ .nop → exec i s = .next t →
    t.evq.length = s.evq.length + t.result.evCount.toNat ∧
    (t.result.evCount ≠ 0 ↔ ∃ len words ts, i = .cycle len words ts ∧ len.toNat = 29)

/-- The session is written only by REGISTER and by a successful CYCLE (R24). -/
def Obligations.OnlyRegisterAndCycleWriteTheSession : Prop :=
  ∀ (i : Instr) (s t : State), exec i s = .next t → t.session ≠ s.session →
    i = .register ∨ ∃ len words ts, i = .cycle len words ts ∧ len.toNat = 29

/-- The latch is written whole or not at all (R26): a command that is not REGISTER leaves it as it was, or with the
telemetry of the block it delivered and TEL_VALID set. -/
def Obligations.LatchIsAllOrNothing : Prop :=
  ∀ (i : Instr) (s t : State), i ≠ .register → exec i s = .next t →
    t.latch = s.latch ∨ (t.telValid = true ∧ t.blkLen.toNat = 29 ∧ decodeBlock t.w t.blkLen = .ok t.latch)

/-- W and BLK_LEN are written only by CYCLE and DECODE (R20), and reset by REGISTER (R153). -/
def Obligations.OnlyBlockCommandsWriteTheBuffer : Prop :=
  ∀ (i : Instr) (s t : State), exec i s = .next t → (t.w ≠ s.w ∨ t.blkLen ≠ s.blkLen) →
    i = .register ∨ (∃ len words ts, i = .cycle len words ts) ∨ ∃ len words, i = .decode len words

/-- The power-on state is sound, for every value of the parameters (`State.reset` is that of the defaults, log 11). -/
def Obligations.PowerOnStateIsSound : Prop :=
  (∀ i : Config.Init, Inv (State.resetWith i)) ∧ Inv State.reset

/-- Every step keeps a sound state sound: TEL_VALID means the latch holds the telemetry of the last delivered block
(R26), RESULT and ERRQ hold only what the commands write and every error in RESULT is logged (R191 to R195), EVQ is
whole cycles' records in order (R134). -/
def Obligations.EveryStepKeepsTheStateSound : Prop :=
  ∀ s t : State, Inv s → step s = .next t → Inv t

/-- W and BLK_LEN are never observable (R22, R31): states that differ in them alone answer every HostRead alike, and
step alike to states that again differ in them alone. The two steps start from equal counters and so take the same free
NaNs, the model's choice (log 29). -/
def Obligations.BufferIsNeverObservable : Prop :=
  ∀ s t : State, SameButBuffer s t →
    (∀ off, hostRead s off = hostRead t off) ∧ SameOutcome SameButBuffer (step s) (step t)

/-! ### The host read map and the packed records -/

/-- PARAM reads 0x1D01080C always (R35). -/
def Obligations.ParamIsConstant : Prop :=
  ∀ s : State, hostRead s 0x00 = .ok 0x1D01080C

/-- The fields of SESSION (R36), and the codes of MachineStatus in it (R81). -/
def Obligations.SessionWordFields : Prop :=
  StatusCodesAsGiven ∧
  ∀ s : State, ∃ x, hostRead s 0x01 = .ok x ∧
    x.extractLsb' 0 3 = statusCode s.session.prevStatus ∧ x.getLsbD 3 = s.session.prevWeld ∧
    x.extractLsb' 4 12 = 0 ∧ x.extractLsb' 16 16 = s.session.lastAddr

/-- The fields of RESULT (R37), and the codes of ERR_KIND (R191) and ERR_REASON (R192) in it. -/
def Obligations.ResultWordFields : Prop :=
  ErrorCodesAsGiven ∧
  ∀ s : State, ∃ x, hostRead s 0x02 = .ok x ∧
    x.extractLsb' 0 3 = kindCode s.result.errKind ∧ x.extractLsb' 3 2 = reasonCode s.result.errReason ∧
    x.getLsbD 5 = s.telValid ∧ x.extractLsb' 6 2 = s.result.evCount ∧ x.extractLsb' 8 24 = 0

/-- The telemetry offsets read the latch whatever TEL_VALID is (R38). -/
def Obligations.TelemetryOffsetsReadTheLatch : Prop :=
  ∀ s : State,
    (∀ i : Fin 12, hostRead s (0x10 + i) = .ok s.latch.floats[i]) ∧
    (∀ j : Fin 8, hostRead s (0x20 + j) = .ok (0#24 ++ s.latch.dig[j])) ∧
    hostRead s 0x28 = .ok (0#16 ++ s.latch.addr)

/-- Reserved offsets read 0 (R34), and an offset at or above 0x40 is refused (R39). -/
def Obligations.OtherOffsetsReadZeroOrAreRefused : Prop :=
  ∀ (s : State) (off : Nat),
    ((0x03 ≤ off ∧ off ≤ 0x0F) ∨ (0x1C ≤ off ∧ off ≤ 0x1F) ∨ (0x29 ≤ off ∧ off ≤ 0x3F) → hostRead s off = .ok 0) ∧
    (0x40 ≤ off → hostRead s off = .error (.hostReadOutOfRange off))

/-- The fields of EVHDR (R83), for each kind of record, and the codes of MachineStatus in it (R81). -/
def Obligations.EventHeaderFields : Prop :=
  StatusCodesAsGiven ∧
  (∀ U I status weld id time, ∃ x : Word,
    packEvent (.measurement U I status weld id time) =
      .word x :: (U.toList.map .word ++ I.toList.map .dword ++ [.time time]) ∧
    x.extractLsb' 0 2 = 0 ∧ x.extractLsb' 2 3 = statusCode status ∧ x.getLsbD 5 = weld ∧
    x.extractLsb' 6 10 = 0 ∧ x.extractLsb' 16 16 = id) ∧
  (∀ status id time, ∃ x : Word,
    packEvent (.statusChanged status id time) = [.word x, .time time] ∧
    x.extractLsb' 0 2 = 1 ∧ x.extractLsb' 2 3 = statusCode status ∧ x.getLsbD 5 = false ∧
    x.extractLsb' 6 10 = 0 ∧ x.extractLsb' 16 16 = id) ∧
  (∀ weld id time, ∃ x : Word,
    packEvent (.wmStatusChanged weld id time) = [.word x, .time time] ∧
    x.extractLsb' 0 2 = 2 ∧ x.extractLsb' 2 3 = 0 ∧ x.getLsbD 5 = weld ∧
    x.extractLsb' 6 10 = 0 ∧ x.extractLsb' 16 16 = id)

/-- The fields of ERRHDR (R87), the codes of kind (R191) and reason (R192) in it, and the optional items after it. -/
def Obligations.ErrorHeaderFields : Prop :=
  ErrorCodesAsGiven ∧
  ∀ r : ErrorRecord, ∃ x : Word,
    packError r = .word x :: ((match r.time with | some t => [.time t] | none => []) ++
      (match r.detail with | some d => [.detail d] | none => [])) ∧
    x.extractLsb' 0 3 = kindCode r.kind ∧ x.extractLsb' 3 2 = reasonCode r.reason ∧ x.extractLsb' 5 3 = 0 ∧
    x.extractLsb' 8 8 = r.cmd ∧ x.getLsbD 16 = r.time.isSome ∧ x.getLsbD 17 = r.detail.isSome ∧ x.extractLsb' 18 14 = 0

/-! ### Rendering and the host -/

/-- The three-decimal rendering rounds real(x) * 1000 to the nearest integer, ties to the even one (R174). -/
def Obligations.ThousandthsRoundToNearestEven : Prop :=
  ∀ (m : Nat) (e : Int),
    |(thousandths m e : ℚ) - real false m e * 1000| ≤ 1 / 2 ∧
    (|(thousandths m e : ℚ) - real false m e * 1000| = 1 / 2 → thousandths m e % 2 = 0)

/-- Decimal texts (R174, R178): the digits of a number read back as that number, 0 is the single digit "0", and no
other number begins with "0". -/
def Obligations.DecimalTextReadsBack : Prop :=
  natText 0 = ['0'] ∧
  ∀ n : Nat, someDigits 10 decDigit (natText n) = some n ∧ (n ≠ 0 → (natText n).head? ≠ some '0')

/-- FMT3 of a pattern of either width. A finite value (R174): a sign exactly for negative values and -0, the decimal
text of the whole part, a point, three digits of the thousandths. A NaN or an infinity (R175): the OPEN FMT_NONFINITE
(log 15). -/
def Obligations.FixedThreeWritesTheThousandths : Prop :=
  (∀ (neg : Bool) (m : Nat) (e : Int), ∃ frac : Text,
    fixed3 neg m e = (if neg then ['-'] else []) ++ natText (thousandths m e / 1000) ++ ['.'] ++ frac ∧
    frac.length = 3 ∧ someDigits 10 decDigit frac = some (thousandths m e % 1000)) ∧
  (∀ b : Word, datum (.single b) = f32 b) ∧ (∀ b : Dword, datum (.double b) = f64 b) ∧
  ∀ x : FloatPattern,
    (∀ neg m e, datum x = .fin neg m e → fmt3 x = fixed3 neg m e) ∧
    ((∀ neg m e, datum x ≠ .fin neg m e) → fmt3 x = Config.fmtNonfinite x)

/-- TimeText (R179) writes the time that its timestamp stands for in the host's timezone, as an ISO-8601 date and time
with offset, in the extended calendar form (log 14): the year, month, day, hour and minute of that time, its second and
the digits of its fraction as far as its precision goes, and "Z" or its signed offset. -/
def Obligations.TimeTextIsIso8601WithOffset : Prop :=
  (∀ ts : TS, timeText ts = isoText (Config.zonedTime Config.tz ts)) ∧
  ∀ z : Config.ZonedTime, ∃ year month day hour minute seconds offset : Text,
    isoText z = year ++ ['-'] ++ month ++ ['-'] ++ day ++ ['T'] ++ hour ++ [':'] ++ minute ++ seconds ++ offset ∧
    WritesNumber 4 z.year year ∧ WritesNumber 2 (z.month + 1) month ∧ WritesNumber 2 (z.day + 1) day ∧
    WritesNumber 2 z.hour hour ∧ WritesNumber 2 z.minute minute ∧
    (z.second = none → seconds = []) ∧
    (∀ s, z.second = some (s, []) → ∃ st, WritesNumber 2 s st ∧ seconds = [':'] ++ st) ∧
    (∀ s ds, z.second = some (s, ds) → ds ≠ [] → ∃ st frac, WritesNumber 2 s st ∧
      frac.map decDigit = ds.map (fun d => some d.val) ∧ seconds = [':'] ++ st ++ ['.'] ++ frac) ∧
    (z.offset = .utc → offset = ['Z']) ∧
    (∀ west h m, z.offset = .numeric west h m → ∃ ht mt, WritesNumber 2 h ht ∧ WritesNumber 2 m mt ∧
      offset = [if west then '-' else '+'] ++ ht ++ [':'] ++ mt)

/-- The keys and values of each message (R171 to R173), their order aside, with the texts of the status (R176), the
flag (R177) and the address (R178). -/
def Obligations.MessagesHaveTheirKeysAndValues : Prop :=
  (∀ (U : Vector Word 4) (I : Vector Dword 4) status weld id time,
    sameMessage (renderEvent (.measurement U I status weld id time))
      { fields :=
          [("Type".toList, "Measurement".toList), ("ID".toList, idText id), ("Time".toList, timeText time),
            ("Status".toList, statusText status), ("WeldStatus".toList, weldText weld),
            ("Length".toList, ['0']), ("Speed".toList, ['0'])] ++
          (List.finRange 4).map (fun k => ('U' :: natText k.val, fmt3 (.single U[k]))) ++
          (List.finRange 4).map (fun k => ('I' :: natText k.val, fmt3 (.double I[k]))) } = true) ∧
  (∀ status id time,
    sameMessage (renderEvent (.statusChanged status id time))
      { fields := [("Type".toList, "StatusChanged".toList), ("ID".toList, idText id), ("Time".toList, timeText time),
          ("Status".toList, statusText status)] } = true) ∧
  (∀ weld id time,
    sameMessage (renderEvent (.wmStatusChanged weld id time))
      { fields := [("Type".toList, "WMStatusChanged".toList), ("ID".toList, idText id), ("Time".toList, timeText time),
          ("WeldStatus".toList, weldText weld)] } = true) ∧
  (∀ s : MachineStatus, ∃ c, statusText s = [c] ∧ decDigit c = some (statusCode s).toNat) ∧
  weldText true = ['1'] ∧ weldText false = ['0'] ∧
  (∀ a : Half, someDigits 10 decDigit (idText a) = some a.toNat ∧ (a ≠ 0 → (idText a).head? ≠ some '0')) ∧
  idText 0 = ['0']

/-- A poll cycle (R204, R159, R73) issues one command and runs it: CYCLE with the words exactly as returned,
CYCLE_FAIL on a TransportError; more than 65535 words are refused. On a port that holds nothing else, the poll cycle
is that one command's execution. -/
def Obligations.PollCycleIssuesOneCommand : Prop :=
  (∀ (ts : TS) (d : Detail), cycleCommand ts (.transportError d) = .ok (.cycleFail ts d)) ∧
  (∀ (ts : TS) (words : List Half), words.length < 65536 →
    ∃ len : Half, len.toNat = words.length ∧ cycleCommand ts (.block words) = .ok (.cycle len words ts)) ∧
  (∀ (ts : TS) (words : List Half), 65536 ≤ words.length →
    cycleCommand ts (.block words) = .error (.tooManyWords words.length)) ∧
  (∀ (ts : TS) (r : ReadOutcome) (i : Instr) (s : State), cycleCommand ts r = .ok i →
    pollCycle ts r s = step { s with port := s.port ++ encode i } ∧
    (s.port = [] → pollCycle ts r s = exec i s)) ∧
  ∀ (ts : TS) (r : ReadOutcome) (e : Refusal) (s : State), cycleCommand ts r = .error e → pollCycle ts r s = .refused e

/-- The steps of two different instances do not affect each other (R68, R209): each leaves the other's state alone,
and they may be taken in either order. -/
def Obligations.InstancesAreIndependent : Prop :=
  ∀ (f g h : Fleet) (j k : Nat), j ≠ k → stepInstance j f = .next g → stepInstance k g = .next h →
    g.blocks[k]? = f.blocks[k]? ∧ ∃ g', stepInstance k f = .next g' ∧ stepInstance j g' = .next h
end

