-- ==== Sys2Proof/Laws/Bytes.lean ====
section
/-!
SUPPORT. The byte helpers and the remap as numbers, so that facts about bytes are arithmetic.
-/

namespace Sys2Proof.Machine

/-- A concatenation as a number. -/
theorem toNat_concat {m n : Nat} (a : BitVec m) (b : BitVec n) : (a ++ b).toNat = a.toNat * 2 ^ n + b.toNat := by
  rw [BitVec.toNat_append, ← Nat.shiftLeft_add_eq_or_of_lt b.isLt, Nat.shiftLeft_eq]

/-- The low byte as a number. -/
theorem lo8_toNat (w : Half) : (lo8 w).toNat = w.toNat % 256 := by
  simp [lo8, BitVec.extractLsb'_toNat]

/-- The high byte as a number. -/
theorem hi8_toNat (w : Half) : (hi8 w).toNat = w.toNat / 256 := by
  have := w.isLt
  simp only [hi8, BitVec.extractLsb'_toNat, Nat.shiftRight_eq_div_pow]
  omega

/-- The swapped word as a number (R12). -/
theorem bswap16_toNat (w : Half) : (bswap16 w).toNat = w.toNat % 256 * 256 + w.toNat / 256 := by
  rw [bswap16, toNat_concat, lo8_toNat, hi8_toNat]
  norm_num

/-- The remapped pattern as a number (R104). -/
theorem remap_toNat (lo hi : Half) :
    (remap lo hi).toNat =
      ((hi.toNat % 256 * 256 + hi.toNat / 256) * 256 + lo.toNat % 256) * 256 + lo.toNat / 256 := by
  simp only [remap]
  rw [toNat_concat, toNat_concat, toNat_concat, lo8_toNat, lo8_toNat, hi8_toNat, hi8_toNat]
  norm_num

/-- The words of a pattern as numbers (R111). -/
theorem unmap_toNat (b : Word) :
    (unmap b).1.toNat = b.toNat % 256 * 256 + b.toNat / 256 % 256 ∧
    (unmap b).2.toNat = b.toNat / 2 ^ 16 % 256 * 256 + b.toNat / 2 ^ 24 := by
  have := b.isLt
  constructor <;> simp only [unmap, bswap16_toNat, BitVec.extractLsb'_toNat, Nat.shiftRight_eq_div_pow] <;> omega

end Sys2Proof.Machine
end

