-- ==== Sys2Proof/Laws/Decoder.lean ====
section
/-!
SUPPORT. What the register-block decoder can answer: one lemma for each of its parts, so that no later proof unfolds the
bounded reads.
-/

namespace Sys2Proof.Machine

/-- If every computation answers, `collect` answers the vector of the answers. -/
theorem collect_ok {ε α : Type} : ∀ (n : Nat) (f : Fin n → Except ε α) (g : Fin n → α),
    (∀ i, f i = .ok (g i)) → collect n f = .ok (Vector.ofFn g)
  | 0, _, _, _ => by simp [collect]
  | n + 1, f, g, h => by
    have hx := collect_ok n (fun i => f i.castSucc) (fun i => g i.castSucc) (fun i => h _)
    have hpush : (Vector.ofFn (fun i : Fin n => g i.castSucc)).push (g (Fin.last n)) = Vector.ofFn g := by
      ext i hi
      simp only [Vector.getElem_push, Vector.getElem_ofFn]
      split
      · rfl
      · have : i = n := by omega
        subst this
        rfl
    rw [collect, hx, h, ← hpush]
    rfl

/-- A bounded read inside the delivered words (R101). -/
theorem blkRead_ok (w : Config.Block) (len : Half) (k : Nat) (hk : k < Config.L) (hlen : k < len.toNat) :
    blkRead w len k = .ok w[k] := by
  simp [blkRead, hk, hlen]

/-- A bounded read beyond the delivered words (R101). -/
theorem blkRead_error (w : Config.Block) (len : Half) (k : Nat) (h : len.toNat ≤ k) :
    blkRead w len k = .error .shortRead := by
  have : ¬ (k < len.toNat ∧ k < Config.L) := by omega
  simp [blkRead, this]

/-- The telemetry of a whole block (R104, R107, R108), without the bounds checks. -/
def telemetryOf (w : Config.Block) : Telemetry :=
  { floats := Vector.ofFn fun i : Fin 12 => remap w[2 * i.val] w[2 * i.val + 1]
    dig := Vector.ofFn fun c : Fin 8 => if c.val % 2 = 0 then lo8 w[24 + c.val / 2] else hi8 w[24 + c.val / 2]
    addr := w[28] }

/-- Float channel i of a whole block (R104). -/
theorem floatBits_ok (w : Config.Block) (len : Half) (h : len.toNat = 29) (i : Fin 12) :
    floatBits w len i.val = .ok (remap w[2 * i.val] w[2 * i.val + 1]) := by
  have h1 := blkRead_ok w len (2 * i.val) (by simp only [Config.L]; omega) (by omega)
  have h2 := blkRead_ok w len (2 * i.val + 1) (by simp only [Config.L]; omega) (by omega)
  rw [floatBits, h1]
  exact (congrArg (fun x => x >>= fun y => Except.ok (remap w[2 * i.val] y)) h2 : _)

/-- Digital channel c of a whole block (R107). -/
theorem digital_ok (w : Config.Block) (len : Half) (h : len.toNat = 29) (c : Fin 8) :
    digital w len c.val = .ok (if c.val % 2 = 0 then lo8 w[24 + c.val / 2] else hi8 w[24 + c.val / 2]) := by
  have h1 := blkRead_ok w len (24 + c.val / 2) (by simp only [Config.L]; omega) (by omega)
  exact (congrArg (fun x => x >>= fun y => Except.ok (if c.val % 2 = 0 then lo8 y else hi8 y)) h1 : _)

/-- Decode of exactly L words succeeds with every channel (R109). -/
theorem decodeBlock_ok (w : Config.Block) (len : Half) (h : len.toNat = 29) :
    decodeBlock w len = .ok (telemetryOf w) := by
  have hl : lengthCheck len = .ok () := by simp [lengthCheck, h, Config.L]
  have hf := collect_ok 12 (fun i => floatBits w len i) _ (floatBits_ok w len h)
  have hd := collect_ok 8 (fun c => digital w len c) _ (digital_ok w len h)
  have ha : address w len = .ok w[28] := blkRead_ok w len 28 (by decide) (by omega)
  rw [decodeBlock, hl, hf, hd, ha]
  rfl

/-- Decode of fewer words (R102). -/
theorem decodeBlock_short (w : Config.Block) (len : Half) (h : len.toNat < 29) :
    decodeBlock w len = .error .shortRead := by
  have hl : lengthCheck len = .error .shortRead := by simp [lengthCheck, h, Config.L]
  simp only [decodeBlock, hl, bind, Except.bind]

/-- Decode of more words (R102). -/
theorem decodeBlock_long (w : Config.Block) (len : Half) (h : 29 < len.toNat) :
    decodeBlock w len = .error .lengthMismatch := by
  have hl : lengthCheck len = .error .lengthMismatch := by
    have : ¬ len.toNat < 29 := by omega
    simp [lengthCheck, h, this, Config.L]
  simp only [decodeBlock, hl, bind, Except.bind]

/-- Everything Decode can answer (R109). -/
theorem decodeBlock_cases (w : Config.Block) (len : Half) :
    (len.toNat = 29 ∧ decodeBlock w len = .ok (telemetryOf w)) ∨
    (len.toNat < 29 ∧ decodeBlock w len = .error .shortRead) ∨
    (29 < len.toNat ∧ decodeBlock w len = .error .lengthMismatch) := by
  rcases Nat.lt_trichotomy len.toNat 29 with h | h | h
  · exact .inr (.inl ⟨h, decodeBlock_short w len h⟩)
  · exact .inl ⟨h, decodeBlock_ok w len h⟩
  · exact .inr (.inr ⟨h, decodeBlock_long w len h⟩)

end Sys2Proof.Machine
end

