-- ==== Sys2Proof/Laws/Float.lean ====
section
/-!
SUPPORT. What the rounding operations answer: a value is rounded by its value alone, and a value that fits is kept exactly.
-/

namespace Sys2Proof.Machine

/-- Rounding division by 1. -/
@[simp] theorem rneDiv_one (n : Nat) : rneDiv n 1 = n := by simp [rneDiv, Nat.mod_one]

/-- A common positive factor does not change a rounded quotient. -/
theorem rneDiv_scale (n d c : Nat) (hc : 0 < c) : rneDiv (n * c) (d * c) = rneDiv n d := by
  have hq : n * c / (d * c) = n / d := Nat.mul_div_mul_right n d hc
  have hr : n * c % (d * c) = n % d * c := Nat.mul_mod_mul_right c n d
  have h1 : 2 * (n % d * c) < d * c ↔ 2 * (n % d) < d := by
    rw [← Nat.mul_assoc]; exact Nat.mul_lt_mul_right hc
  have h2 : 2 * (n % d * c) = d * c ↔ 2 * (n % d) = d := by
    rw [← Nat.mul_assoc]; exact Nat.mul_left_inj hc.ne'
  simp only [rneDiv, hq, hr, h1, h2]

/-- An exact quotient is not rounded. -/
theorem rneDiv_exact (n d : Nat) (hd : 0 < d) : rneDiv (n * d) d = n := by
  have := rneDiv_scale n 1 d hd
  rwa [Nat.one_mul, rneDiv_one] at this

/-- The last place of a value does not depend on how the value is split. -/
theorem lastPlace_scale (fb : Nat) (qmin : Int) (m a : Nat) (e : Int) (hm : m ≠ 0) :
    lastPlace fb qmin (m * 2 ^ a) (e - a) = lastPlace fb qmin m e := by
  have : Nat.log2 (m * 2 ^ a) = Nat.log2 m + a := by
    have h0 : m * 2 ^ a ≠ 0 := by positivity
    rw [Nat.log2_eq_iff h0, Nat.pow_add]
    constructor
    · exact Nat.mul_le_mul_right _ (Nat.log2_self_le hm)
    · have : 2 ^ (Nat.log2 m + a + 1) = 2 ^ (Nat.log2 m + 1) * 2 ^ a := by ring
      rw [this]
      exact (Nat.mul_lt_mul_right (Nat.two_pow_pos _)).2 Nat.lt_log2_self
  simp only [lastPlace, this]
  congr 1
  push_cast
  ring

/-- The value in units of 2^q does not depend on how the value is split. -/
theorem toUnits_scale (m a : Nat) (e q : Int) : toUnits (m * 2 ^ a) (e - a) q = toUnits m e q := by
  unfold toUnits
  rcases le_or_gt q (e - a) with h | h
  · rw [if_pos h, if_pos (by omega), Nat.mul_assoc, ← Nat.pow_add]
    congr 2
    omega
  · rw [if_neg (by omega)]
    rcases le_or_gt q e with h' | h'
    · rw [if_pos h']
      have : 2 ^ a = 2 ^ (e - q).toNat * 2 ^ (q - (e - a)).toNat := by
        rw [← Nat.pow_add]; congr 1; omega
      rw [this, ← Nat.mul_assoc, rneDiv_exact _ _ (Nat.two_pow_pos _)]
    · rw [if_neg (by omega)]
      have : (2 : Nat) ^ (q - (e - a)).toNat = 2 ^ (q - e).toNat * 2 ^ a := by
        rw [← Nat.pow_add]; congr 1; omega
      rw [this, rneDiv_scale _ _ _ (Nat.two_pow_pos _)]

/-- Rounding depends on the value alone, not on how it is split into significand and exponent. -/
theorem round64_scale (neg : Bool) (m a : Nat) (e : Int) : round64 neg (m * 2 ^ a) (e - a) = round64 neg m e := by
  rcases eq_or_ne m 0 with rfl | hm
  · simp [round64, roundMagnitude]
  · have hm' : m * 2 ^ a ≠ 0 := by positivity
    simp only [round64, roundMagnitude, if_neg hm, if_neg hm', lastPlace_scale _ _ _ _ _ hm, toUnits_scale]

/-- The datum of a packed binary64 pattern. -/
theorem f64_pack64 (neg : Bool) (mag : Nat) (h : mag < 2 ^ 63) :
    f64 (pack64 neg mag) = datumOf 52 2047 (-1074) neg (mag / 2 ^ 52) (mag % 2 ^ 52) := by
  have hs : (pack64 neg mag).getLsbD 63 = neg := by
    rw [pack64, BitVec.getLsbD_append]
    simp
  have hx : ((pack64 neg mag).extractLsb' 52 11).toNat = mag / 2 ^ 52 := by
    simp only [pack64, BitVec.extractLsb'_toNat, BitVec.toNat_append, BitVec.toNat_ofNat, Nat.mod_eq_of_lt h]
    rw [Nat.shiftRight_eq_div_pow, ← Nat.shiftLeft_add_eq_or_of_lt h, Nat.shiftLeft_eq]
    have : (BitVec.ofBool neg).toNat < 2 := (BitVec.ofBool neg).isLt
    omega
  have hf : ((pack64 neg mag).extractLsb' 0 52).toNat = mag % 2 ^ 52 := by
    simp only [pack64, BitVec.extractLsb'_toNat, BitVec.toNat_append, BitVec.toNat_ofNat, Nat.mod_eq_of_lt h]
    rw [Nat.shiftRight_zero, ← Nat.shiftLeft_add_eq_or_of_lt h, Nat.shiftLeft_eq]
    omega
  rw [f64, hs, hx, hf]

/-- A zero keeps its sign. -/
theorem f64_round64_zero (neg : Bool) (e : Int) : f64 (round64 neg 0 e) = .fin neg 0 (-1074) := by
  have h : round64 neg 0 e = pack64 neg 0 := by simp [round64, roundMagnitude]
  rw [h, f64_pack64 _ _ (by decide)]
  rfl

/-- An infinity keeps its sign. -/
theorem f64_inf64 (neg : Bool) : f64 (inf64 neg) = .inf neg := by
  rw [inf64, f64_pack64 _ _ (by decide)]
  rfl

/-- `nan64` is a NaN whatever its arguments. -/
theorem f64_nan64 (neg : Bool) (fr : BitVec 52) : f64 (nan64 neg fr) = .nan := by
  have hlt := fr.isLt
  rw [nan64]
  by_cases h : fr = 0
  · rw [if_pos h, f64_pack64 _ _ (by decide)]
    rfl
  · have h0 : fr.toNat ≠ 0 := fun h' => h (BitVec.eq_of_toNat_eq h')
    rw [if_neg h, f64_pack64 _ _ (by rw [infMagnitude64]; omega)]
    have hd : (infMagnitude64 + fr.toNat) / 2 ^ 52 = 2047 := by rw [infMagnitude64]; omega
    have hm : (infMagnitude64 + fr.toNat) % 2 ^ 52 = fr.toNat := by rw [infMagnitude64]; omega
    rw [hd, hm]
    simp [datumOf, h0]

/-- A value whose significand fits in 53 bits and whose exponent is in binary64's range is kept exactly: the answer's datum
is the same value, with the significand shifted left by some `j`. -/
theorem f64_round64_exact (neg : Bool) (m : Nat) (e : Int) (h53 : m < 2 ^ 53) (hlo : -1074 ≤ e)
    (hhi : e + Nat.log2 m ≤ 1023) : ∃ j : Nat, f64 (round64 neg m e) = .fin neg (m * 2 ^ j) (e - j) ∨
      m = 0 ∧ f64 (round64 neg m e) = .fin neg 0 (-1074) := by
  rcases eq_or_ne m 0 with rfl | hm
  · exact ⟨0, .inr ⟨rfl, f64_round64_zero neg e⟩⟩
  have hl1 : 2 ^ Nat.log2 m ≤ m := Nat.log2_self_le hm
  have hl2 : m < 2 ^ (Nat.log2 m + 1) := Nat.lt_log2_self
  have hl : Nat.log2 m ≤ 52 := by
    by_contra hc
    have : 2 ^ 53 ≤ 2 ^ Nat.log2 m := Nat.pow_le_pow_right (by decide) (by omega)
    omega
  generalize hk : Nat.log2 m = k at *
  obtain ⟨q, hq⟩ : ∃ q, q = lastPlace 52 (-1074) m e := ⟨_, rfl⟩
  have hq' : q = max (e + k - 52) (-1074) := by rw [hq, lastPlace, hk]; norm_num
  have hqe : q ≤ e := by omega
  refine ⟨(e - q).toNat, .inl ?_⟩
  have hmag : roundMagnitude 52 (-1074) m e = (q + 1074).toNat * 2 ^ 52 + m * 2 ^ (e - q).toNat := by
    simp only [roundMagnitude, if_neg hm, ← hq, toUnits, if_pos hqe]
    congr 3
  have hup : m * 2 ^ (e - q).toNat < 2 ^ (k + 1 + (e - q).toNat) := by
    rw [Nat.pow_add]; exact (Nat.mul_lt_mul_right (Nat.two_pow_pos _)).2 hl2
  have hdown : 2 ^ (k + (e - q).toNat) ≤ m * 2 ^ (e - q).toNat := by
    rw [Nat.pow_add]; exact Nat.mul_le_mul_right _ hl1
  generalize hM : m * 2 ^ (e - q).toNat = M at *
  rcases le_or_gt (-1074) (e + k - 52) with hn | hn
  · have hqv : q = e + k - 52 := by omega
    have e1 : k + 1 + (e - q).toNat = 53 := by omega
    have e2 : k + (e - q).toNat = 52 := by omega
    rw [e1] at hup
    rw [e2] at hdown
    have hb : (q + 1074).toNat ≤ 2045 := by omega
    have hlt : roundMagnitude 52 (-1074) m e < infMagnitude64 := by
      rw [hmag, infMagnitude64]; omega
    rw [round64, min_eq_left hlt.le, hmag, f64_pack64 _ _ (by omega)]
    have hd : ((q + 1074).toNat * 2 ^ 52 + M) / 2 ^ 52 = (q + 1074).toNat + 1 := by omega
    have hr : ((q + 1074).toNat * 2 ^ 52 + M) % 2 ^ 52 = M - 2 ^ 52 := by omega
    rw [hd, hr, datumOf, if_neg (by omega), if_neg (by omega)]
    have hfrac : 2 ^ 52 + (M - 2 ^ 52) = M := by omega
    have hexp : (-1074 : Int) + ((q + 1074).toNat + 1 : Nat) - 1 = e - (e - q).toNat := by omega
    rw [hfrac, hexp]
  · have hqv : q = -1074 := by omega
    have hM52 : M < 2 ^ 52 := lt_of_lt_of_le hup (Nat.pow_le_pow_right (by decide) (by omega))
    have hz : (q + 1074).toNat = 0 := by omega
    have hlt : roundMagnitude 52 (-1074) m e < infMagnitude64 := by
      rw [hmag, hz, infMagnitude64]; omega
    rw [round64, min_eq_left hlt.le, hmag, hz, Nat.zero_mul, Nat.zero_add, f64_pack64 _ _ (by omega),
      Nat.div_eq_of_lt hM52, Nat.mod_eq_of_lt hM52, datumOf, if_neg (by decide), if_pos rfl]
    congr 1
    omega

end Sys2Proof.Machine
end

