-- ==== Sys2Proof/Laws/State.lean ====
section
/-!
SUPPORT. One lemma for each field of State under each named operation.
-/

namespace Sys2Proof.Machine

section
variable (n : Half) (v : List Half) (s : State)

@[simp] theorem deliver_w : (deliver n v s).w = deliverWords n v s.w := by simp only [deliver]
@[simp] theorem deliver_blkLen : (deliver n v s).blkLen = n := by simp only [deliver]
@[simp] theorem deliver_session : (deliver n v s).session = s.session := by simp only [deliver]
@[simp] theorem deliver_latch : (deliver n v s).latch = s.latch := by simp only [deliver]
@[simp] theorem deliver_telValid : (deliver n v s).telValid = s.telValid := by simp only [deliver]
@[simp] theorem deliver_result : (deliver n v s).result = s.result := by simp only [deliver]
@[simp] theorem deliver_evq : (deliver n v s).evq = s.evq := by simp only [deliver]
@[simp] theorem deliver_errq : (deliver n v s).errq = s.errq := by simp only [deliver]
@[simp] theorem deliver_port : (deliver n v s).port = s.port := by simp only [deliver]
@[simp] theorem deliver_freeCtr : (deliver n v s).freeCtr = s.freeCtr := by simp only [deliver]
@[simp] theorem deliver_init : (deliver n v s).init = s.init := by simp only [deliver]

end

section
variable (tel : Telemetry) (s : State)

@[simp] theorem writeLatch_w : (writeLatch tel s).w = s.w := rfl
@[simp] theorem writeLatch_blkLen : (writeLatch tel s).blkLen = s.blkLen := rfl
@[simp] theorem writeLatch_session : (writeLatch tel s).session = s.session := rfl
@[simp] theorem writeLatch_latch : (writeLatch tel s).latch = tel := rfl
@[simp] theorem writeLatch_telValid : (writeLatch tel s).telValid = true := rfl
@[simp] theorem writeLatch_result : (writeLatch tel s).result = s.result := rfl
@[simp] theorem writeLatch_evq : (writeLatch tel s).evq = s.evq := rfl
@[simp] theorem writeLatch_errq : (writeLatch tel s).errq = s.errq := rfl
@[simp] theorem writeLatch_port : (writeLatch tel s).port = s.port := rfl
@[simp] theorem writeLatch_freeCtr : (writeLatch tel s).freeCtr = s.freeCtr := rfl
@[simp] theorem writeLatch_init : (writeLatch tel s).init = s.init := rfl

end

section
variable (evs : List EventRecord) (s : State)

@[simp] theorem emit_w : (emit evs s).w = s.w := rfl
@[simp] theorem emit_blkLen : (emit evs s).blkLen = s.blkLen := rfl
@[simp] theorem emit_session : (emit evs s).session = s.session := rfl
@[simp] theorem emit_latch : (emit evs s).latch = s.latch := rfl
@[simp] theorem emit_telValid : (emit evs s).telValid = s.telValid := rfl
@[simp] theorem emit_result : (emit evs s).result = s.result := rfl
@[simp] theorem emit_evq : (emit evs s).evq = s.evq ++ evs := rfl
@[simp] theorem emit_errq : (emit evs s).errq = s.errq := rfl
@[simp] theorem emit_port : (emit evs s).port = s.port := rfl
@[simp] theorem emit_freeCtr : (emit evs s).freeCtr = s.freeCtr := rfl
@[simp] theorem emit_init : (emit evs s).init = s.init := rfl

end

section
variable (r : ErrorRecord) (s : State)

@[simp] theorem log_w : (log r s).w = s.w := rfl
@[simp] theorem log_blkLen : (log r s).blkLen = s.blkLen := rfl
@[simp] theorem log_session : (log r s).session = s.session := rfl
@[simp] theorem log_latch : (log r s).latch = s.latch := rfl
@[simp] theorem log_telValid : (log r s).telValid = s.telValid := rfl
@[simp] theorem log_result : (log r s).result = s.result := rfl
@[simp] theorem log_evq : (log r s).evq = s.evq := rfl
@[simp] theorem log_errq : (log r s).errq = s.errq ++ [r] := rfl
@[simp] theorem log_port : (log r s).port = s.port := rfl
@[simp] theorem log_freeCtr : (log r s).freeCtr = s.freeCtr := rfl
@[simp] theorem log_init : (log r s).init = s.init := rfl

end

section
variable (st : MachineStatus) (wd : Bool) (a : Half) (s : State)

@[simp] theorem commit_w : (commit st wd a s).w = s.w := rfl
@[simp] theorem commit_blkLen : (commit st wd a s).blkLen = s.blkLen := rfl
@[simp] theorem commit_session : (commit st wd a s).session = { prevStatus := st, prevWeld := wd, lastAddr := a } := rfl
@[simp] theorem commit_latch : (commit st wd a s).latch = s.latch := rfl
@[simp] theorem commit_telValid : (commit st wd a s).telValid = s.telValid := rfl
@[simp] theorem commit_result : (commit st wd a s).result = s.result := rfl
@[simp] theorem commit_evq : (commit st wd a s).evq = s.evq := rfl
@[simp] theorem commit_errq : (commit st wd a s).errq = s.errq := rfl
@[simp] theorem commit_port : (commit st wd a s).port = s.port := rfl
@[simp] theorem commit_freeCtr : (commit st wd a s).freeCtr = s.freeCtr := rfl
@[simp] theorem commit_init : (commit st wd a s).init = s.init := rfl

end

section
variable (n : Nat) (s : State)

@[simp] theorem succeed_w : (succeed n s).w = s.w := rfl
@[simp] theorem succeed_blkLen : (succeed n s).blkLen = s.blkLen := rfl
@[simp] theorem succeed_session : (succeed n s).session = s.session := rfl
@[simp] theorem succeed_latch : (succeed n s).latch = s.latch := rfl
@[simp] theorem succeed_telValid : (succeed n s).telValid = s.telValid := rfl
@[simp] theorem succeed_result : (succeed n s).result = { errKind := .none, errReason := .none, evCount := BitVec.ofNat 2 n } := rfl
@[simp] theorem succeed_evq : (succeed n s).evq = s.evq := rfl
@[simp] theorem succeed_errq : (succeed n s).errq = s.errq := rfl
@[simp] theorem succeed_port : (succeed n s).port = s.port := rfl
@[simp] theorem succeed_freeCtr : (succeed n s).freeCtr = s.freeCtr := rfl
@[simp] theorem succeed_init : (succeed n s).init = s.init := rfl

end

section
variable (s : State)

@[simp] theorem takeFree_w : (takeFree s).w = s.w := rfl
@[simp] theorem takeFree_blkLen : (takeFree s).blkLen = s.blkLen := rfl
@[simp] theorem takeFree_session : (takeFree s).session = s.session := rfl
@[simp] theorem takeFree_latch : (takeFree s).latch = s.latch := rfl
@[simp] theorem takeFree_telValid : (takeFree s).telValid = s.telValid := rfl
@[simp] theorem takeFree_result : (takeFree s).result = s.result := rfl
@[simp] theorem takeFree_evq : (takeFree s).evq = s.evq := rfl
@[simp] theorem takeFree_errq : (takeFree s).errq = s.errq := rfl
@[simp] theorem takeFree_port : (takeFree s).port = s.port := rfl
@[simp] theorem takeFree_freeCtr : (takeFree s).freeCtr = s.freeCtr + 1 := rfl
@[simp] theorem takeFree_init : (takeFree s).init = s.init := rfl

end

section
variable (k : ErrKind) (r : ErrReason) (c : Byte) (t : Option TS) (d : Option Detail) (s : State)

@[simp] theorem raiseError_w : (raiseError k r c t d s).w = s.w := rfl
@[simp] theorem raiseError_blkLen : (raiseError k r c t d s).blkLen = s.blkLen := rfl
@[simp] theorem raiseError_session : (raiseError k r c t d s).session = s.session := rfl
@[simp] theorem raiseError_latch : (raiseError k r c t d s).latch = s.latch := rfl
@[simp] theorem raiseError_telValid : (raiseError k r c t d s).telValid = (if clearsTelValid k then false else s.telValid) := rfl
@[simp] theorem raiseError_result : (raiseError k r c t d s).result = { errKind := k, errReason := r, evCount := 0 } := rfl
@[simp] theorem raiseError_evq : (raiseError k r c t d s).evq = s.evq := rfl
@[simp] theorem raiseError_errq : (raiseError k r c t d s).errq = s.errq ++ [{ kind := k, reason := r, cmd := c, time := t, detail := d }] := rfl
@[simp] theorem raiseError_port : (raiseError k r c t d s).port = s.port := rfl
@[simp] theorem raiseError_freeCtr : (raiseError k r c t d s).freeCtr = s.freeCtr := rfl
@[simp] theorem raiseError_init : (raiseError k r c t d s).init = s.init := rfl

end

section
variable (c : Byte) (s : State)

@[simp] theorem illegal_w : (illegal c s).w = s.w := rfl
@[simp] theorem illegal_blkLen : (illegal c s).blkLen = s.blkLen := rfl
@[simp] theorem illegal_session : (illegal c s).session = s.session := rfl
@[simp] theorem illegal_latch : (illegal c s).latch = s.latch := rfl
@[simp] theorem illegal_telValid : (illegal c s).telValid = s.telValid := rfl
@[simp] theorem illegal_result : (illegal c s).result = { errKind := .illegalCmd, errReason := .none, evCount := 0 } := rfl
@[simp] theorem illegal_evq : (illegal c s).evq = s.evq := rfl
@[simp] theorem illegal_errq : (illegal c s).errq = s.errq ++ [{ kind := .illegalCmd, reason := .none, cmd := c, time := none, detail := none }] := rfl
@[simp] theorem illegal_port : (illegal c s).port = s.port := rfl
@[simp] theorem illegal_freeCtr : (illegal c s).freeCtr = s.freeCtr := rfl
@[simp] theorem illegal_init : (illegal c s).init = s.init := rfl

end

section
variable (s : State)

@[simp] theorem resetBlock_w : (resetBlock s).w = Config.registerW s.freeCtr := rfl
@[simp] theorem resetBlock_blkLen : (resetBlock s).blkLen = 0 := rfl
@[simp] theorem resetBlock_session : (resetBlock s).session = Session.reset s.init := rfl
@[simp] theorem resetBlock_latch : (resetBlock s).latch = Telemetry.zero := rfl
@[simp] theorem resetBlock_telValid : (resetBlock s).telValid = false := rfl
@[simp] theorem resetBlock_result : (resetBlock s).result = Result.zero := rfl
@[simp] theorem resetBlock_evq : (resetBlock s).evq = s.evq := rfl
@[simp] theorem resetBlock_errq : (resetBlock s).errq = s.errq := rfl
@[simp] theorem resetBlock_port : (resetBlock s).port = s.port := rfl
@[simp] theorem resetBlock_freeCtr : (resetBlock s).freeCtr = s.freeCtr + 1 := rfl
@[simp] theorem resetBlock_init : (resetBlock s).init = s.init := rfl

end

section
variable (i : Instr) (s : State)

@[simp] theorem issue_w : (issue i s).w = s.w := rfl
@[simp] theorem issue_blkLen : (issue i s).blkLen = s.blkLen := rfl
@[simp] theorem issue_session : (issue i s).session = s.session := rfl
@[simp] theorem issue_latch : (issue i s).latch = s.latch := rfl
@[simp] theorem issue_telValid : (issue i s).telValid = s.telValid := rfl
@[simp] theorem issue_result : (issue i s).result = s.result := rfl
@[simp] theorem issue_evq : (issue i s).evq = s.evq := rfl
@[simp] theorem issue_errq : (issue i s).errq = s.errq := rfl
@[simp] theorem issue_port : (issue i s).port = s.port ++ encode i := rfl
@[simp] theorem issue_freeCtr : (issue i s).freeCtr = s.freeCtr := rfl
@[simp] theorem issue_init : (issue i s).init = s.init := rfl

end

section
variable (i : Config.Init)

@[simp] theorem resetWith_init : (State.resetWith i).init = i := rfl
@[simp] theorem resetWith_blkLen : (State.resetWith i).blkLen = 0 := rfl
@[simp] theorem resetWith_session : (State.resetWith i).session = Session.reset i := rfl
@[simp] theorem resetWith_latch : (State.resetWith i).latch = Telemetry.zero := rfl
@[simp] theorem resetWith_telValid : (State.resetWith i).telValid = false := rfl
@[simp] theorem resetWith_result : (State.resetWith i).result = Result.zero := rfl
@[simp] theorem resetWith_evq : (State.resetWith i).evq = [] := rfl
@[simp] theorem resetWith_errq : (State.resetWith i).errq = [] := rfl
@[simp] theorem resetWith_port : (State.resetWith i).port = [] := rfl
@[simp] theorem resetWith_freeCtr : (State.resetWith i).freeCtr = 0 := rfl

end

/-- The state with a table word on the port. -/
theorem withFetchWord_eq (s : State) (nbits x : Nat) :
    s.withFetchWord nbits x = { s with port := portOfTableWord nbits x } := by
  simp only [State.withFetchWord]

end Sys2Proof.Machine
end

