-- ==== Sys2Proof/Laws/Ops.lean ====
section
/-!
SUPPORT. What each shared operation and the two block commands can do, said once.
-/

namespace Sys2Proof.Machine

/-- One word of W after a delivery (R22). -/
theorem getElem_deliverWords (n : Half) (v : List Half) (w : Config.Block) (k : Nat) (hk : k < 29) :
    (deliverWords n v w)[k] = if k < n.toNat then (v[k]?).getD w[k] else w[k] := by
  simp [deliverWords]

/-- A delivered word (R22). -/
theorem getElem_deliverWords_of_lt (n : Half) (v : List Half) (w : Config.Block) (k : Nat) (hk : k < 29)
    (hn : k < n.toNat) (hv : k < v.length) : (deliverWords n v w)[k] = v[k] := by
  rw [getElem_deliverWords _ _ _ _ hk, if_pos hn, List.getElem?_eq_getElem hv, Option.getD_some]

/-- The error outcome as one record (R195). -/
theorem raiseError_eq (k : ErrKind) (r : ErrReason) (c : Byte) (t : Option TS) (d : Option Detail) (s : State) :
    raiseError k r c t d s =
      { s with
        result := { errKind := k, errReason := r, evCount := 0 }
        telValid := if clearsTelValid k then false else s.telValid
        errq := s.errq ++ [{ kind := k, reason := r, cmd := c, time := t, detail := d }] } := rfl

/-- StatusChanged is produced exactly where the status differs (R132). -/
theorem statusEdge_cases (s prev : MachineStatus) (id : Half) (ts : TS) :
    (s ≠ prev ∧ statusEdge s prev id ts = [.statusChanged s id ts]) ∨ (s = prev ∧ statusEdge s prev id ts = []) := by
  by_cases h : s = prev
  · exact .inr ⟨h, by simp [statusEdge, h]⟩
  · exact .inl ⟨h, by simp [statusEdge, h]⟩

/-- WMStatusChanged is produced exactly where the flag differs (R133). -/
theorem weldEdge_cases (w prev : Bool) (id : Half) (ts : TS) :
    (w ≠ prev ∧ weldEdge w prev id ts = [.wmStatusChanged w id ts]) ∨ (w = prev ∧ weldEdge w prev id ts = []) := by
  by_cases h : w = prev
  · exact .inr ⟨h, by simp [weldEdge, h]⟩
  · exact .inl ⟨h, by simp [weldEdge, h]⟩

/-- The records of a classification, in terms of its own status and flag (R135). -/
theorem classify_events (n : Nat) (tel : Telemetry) (ps : MachineStatus) (pw : Bool) (ts : TS) :
    (classify n tel ps pw ts).events =
      .measurement (Vector.ofFn (voltage tel)) (Vector.ofFn (current n tel)) (classify n tel ps pw ts).status
          (classify n tel ps pw ts).weld tel.addr ts ::
        (statusEdge (classify n tel ps pw ts).status ps tel.addr ts ++
          weldEdge (classify n tel ps pw ts).weld pw tel.addr ts) := by
  simp only [classify]

/-- A classification produces 1 to 3 records (R134). -/
theorem classify_events_length (n : Nat) (tel : Telemetry) (ps : MachineStatus) (pw : Bool) (ts : TS) :
    1 ≤ (classify n tel ps pw ts).events.length ∧ (classify n tel ps pw ts).events.length ≤ 3 := by
  simp only [classify, statusEdge, weldEdge, List.length_cons, List.length_append]
  constructor
  · omega
  · split <;> split <;> simp

/-- The state a successful CYCLE leaves (R154), for the telemetry `tel` it decoded. -/
def cycleDone (len : Half) (words : List Half) (ts : TS) (tel : Telemetry) (s : State) : State :=
  let c := classify s.freeCtr tel s.session.prevStatus s.session.prevWeld ts
  { s with
    w := deliverWords len words s.w
    blkLen := len
    latch := tel
    telValid := true
    evq := s.evq ++ c.events
    session := { prevStatus := c.status, prevWeld := c.weld, lastAddr := tel.addr }
    result := { errKind := .none, errReason := .none, evCount := BitVec.ofNat 2 c.events.length }
    freeCtr := s.freeCtr + 1 }

section
variable (len : Half) (words : List Half) (ts : TS) (tel : Telemetry) (s : State)

@[simp] theorem cycleDone_w : (cycleDone len words ts tel s).w = deliverWords len words s.w := by
  simp only [cycleDone]
@[simp] theorem cycleDone_blkLen : (cycleDone len words ts tel s).blkLen = len := by
  simp only [cycleDone]
@[simp] theorem cycleDone_session : (cycleDone len words ts tel s).session =
      { prevStatus := (classify s.freeCtr tel s.session.prevStatus s.session.prevWeld ts).status
        prevWeld := (classify s.freeCtr tel s.session.prevStatus s.session.prevWeld ts).weld
        lastAddr := tel.addr } := by
  simp only [cycleDone]
@[simp] theorem cycleDone_latch : (cycleDone len words ts tel s).latch = tel := by
  simp only [cycleDone]
@[simp] theorem cycleDone_telValid : (cycleDone len words ts tel s).telValid = true := by
  simp only [cycleDone]
@[simp] theorem cycleDone_result : (cycleDone len words ts tel s).result =
      { errKind := .none, errReason := .none, evCount := BitVec.ofNat 2 (classify s.freeCtr tel s.session.prevStatus s.session.prevWeld ts).events.length } := by
  simp only [cycleDone]
@[simp] theorem cycleDone_evq : (cycleDone len words ts tel s).evq = s.evq ++ (classify s.freeCtr tel s.session.prevStatus s.session.prevWeld ts).events := by
  simp only [cycleDone]
@[simp] theorem cycleDone_errq : (cycleDone len words ts tel s).errq = s.errq := by
  simp only [cycleDone]
@[simp] theorem cycleDone_port : (cycleDone len words ts tel s).port = s.port := by
  simp only [cycleDone]
@[simp] theorem cycleDone_freeCtr : (cycleDone len words ts tel s).freeCtr = s.freeCtr + 1 := by
  simp only [cycleDone]
@[simp] theorem cycleDone_init : (cycleDone len words ts tel s).init = s.init := by
  simp only [cycleDone]

end

/-- Everything CYCLE can do (R154). -/
theorem execCycle_cases (len : Half) (words : List Half) (ts : TS) (s : State) :
    (len.toNat = 29 ∧
      execCycle len words ts s = .next (cycleDone len words ts (telemetryOf (deliverWords len words s.w)) s)) ∨
    (len.toNat < 29 ∧
      execCycle len words ts s = .next (raiseError .decode .shortRead 0x02 (some ts) none (deliver len words s))) ∨
    (29 < len.toNat ∧
      execCycle len words ts s = .next (raiseError .decode .lengthMismatch 0x02 (some ts) none (deliver len words s))) := by
  rcases decodeBlock_cases (deliverWords len words s.w) len with ⟨h, hd⟩ | ⟨h, hd⟩ | ⟨h, hd⟩
  · exact .inl ⟨h, by
      simp only [execCycle, deliver_w, deliver_blkLen, hd]
      simp only [cycleDone, takeFree, succeed, commit, emit, writeLatch, deliver]⟩
  · exact .inr (.inl ⟨h, by simp only [execCycle, deliver_w, deliver_blkLen, hd]⟩)
  · exact .inr (.inr ⟨h, by simp only [execCycle, deliver_w, deliver_blkLen, hd]⟩)

/-- Everything DECODE can do (R156). -/
theorem execDecode_cases (len : Half) (words : List Half) (s : State) :
    (len.toNat = 29 ∧
      execDecode len words s =
        .next (succeed 0 (writeLatch (telemetryOf (deliverWords len words s.w)) (deliver len words s)))) ∨
    (len.toNat < 29 ∧
      execDecode len words s = .next (raiseError .decode .shortRead 0x04 none none (deliver len words s))) ∨
    (29 < len.toNat ∧
      execDecode len words s = .next (raiseError .decode .lengthMismatch 0x04 none none (deliver len words s))) := by
  rcases decodeBlock_cases (deliverWords len words s.w) len with ⟨h, hd⟩ | ⟨h, hd⟩ | ⟨h, hd⟩
  · exact .inl ⟨h, by simp only [execDecode, deliver_w, deliver_blkLen, hd]⟩
  · exact .inr (.inl ⟨h, by simp only [execDecode, deliver_w, deliver_blkLen, hd]⟩)
  · exact .inr (.inr ⟨h, by simp only [execDecode, deliver_w, deliver_blkLen, hd]⟩)

/-- The five ways a step can end (R56, log 2, log 3): idle, one command, or a refused port. -/
theorem step_cases (s : State) :
    (∃ i rest, decodePort s.port = .ok (i, rest) ∧ step s = exec i { s with port := rest }) ∨
    (decodePort s.port = .error .noCommand ∧ step s = .next s) ∨
    (∃ e, e ≠ .noCommand ∧ decodePort s.port = .error e ∧ step s = .refused (.malformedCommand e)) := by
  unfold step
  cases h : decodePort s.port with
  | ok p => exact .inl ⟨p.1, p.2, rfl, rfl⟩
  | error e =>
    cases e with
    | noCommand => exact .inr (.inl ⟨rfl, rfl⟩)
    | notACommandByte => exact .inr (.inr ⟨_, by decide, rfl, rfl⟩)
    | missingLen => exact .inr (.inr ⟨_, by decide, rfl, rfl⟩)
    | missingWords => exact .inr (.inr ⟨_, by decide, rfl, rfl⟩)
    | missingTime => exact .inr (.inr ⟨_, by decide, rfl, rfl⟩)
    | missingDetail => exact .inr (.inr ⟨_, by decide, rfl, rfl⟩)

end Sys2Proof.Machine
end

