-- ==== Sys2Proof/Laws/PerInstr.lean ====
section
/-!
SUPPORT. The family of statements made for each constructor of Instr: the shape of its encoding (30_encoding.md R70, R72,
R73): a CMD byte that its own row of the table matches, and no other, then its operand fields.
-/

namespace Sys2Proof.Laws.EncodingShape

/-- A well-formed command encodes to its CMD byte and its operand fields, and of the table's rows its own matches the byte
and no other does. -/
def Statement (i : Instr) : Prop :=
  i.wellFormed = true →
    encode i = .byte i.cmd :: i.operands ∧
    ∀ k, ∀ h : k < opcodeRows.length, rowMatches opcodeRows[k] i.cmd = true ↔ k = i.row

/-- The rows that match a byte, as numbers: what the lemmas below compute. -/
theorem of_rows (i : Instr) (h : ∀ k : Fin 9, rowMatches (opcodeRows[k.val]'k.isLt) i.cmd = true ↔ k.val = i.row) :
    Statement i :=
  fun _ => ⟨rfl, fun k hk => h ⟨k, hk⟩⟩

theorem nop : Statement .nop := of_rows _ (by decide)

theorem register : Statement .register := of_rows _ (by decide)

theorem cycle (len : Half) (words : List Half) (ts : TS) : Statement (.cycle len words ts) :=
  of_rows _ (show ∀ k : Fin 9, rowMatches (opcodeRows[k.val]'k.isLt) 0x02 = true ↔ k.val = 2 by decide)

theorem cycleFail (ts : TS) (detail : Detail) : Statement (.cycleFail ts detail) :=
  of_rows _ (show ∀ k : Fin 9, rowMatches (opcodeRows[k.val]'k.isLt) 0x03 = true ↔ k.val = 3 by decide)

theorem decode (len : Half) (words : List Half) : Statement (.decode len words) :=
  of_rows _ (show ∀ k : Fin 9, rowMatches (opcodeRows[k.val]'k.isLt) 0x04 = true ↔ k.val = 4 by decide)

theorem illegalOp5 : Statement .illegalOp5 := of_rows _ (by decide)

theorem illegalOp6 : Statement .illegalOp6 := of_rows _ (by decide)

theorem illegalOp7 : Statement .illegalOp7 := of_rows _ (by decide)

theorem illegalRsv (cmd : Byte) : Statement (.illegalRsv cmd) := fun h =>
  ⟨rfl, fun k hk =>
    (show ∀ c : Byte, c.extractLsb' 3 5 != 0 → ∀ k : Fin 9, rowMatches (opcodeRows[k.val]'k.isLt) c = true ↔ k.val = 8 by
      decide +kernel) cmd h ⟨k, hk⟩⟩

end Sys2Proof.Laws.EncodingShape
end

