-- ==== Sys2Proof/Laws/Port.lean ====
section
/-!
SUPPORT. What the readers of the port's operands can answer: each takes exactly the fields of one operand.
-/

namespace Sys2Proof

/-- `takeWords n` answers exactly when the next `n` fields are words, and answers them in order. -/
theorem takeWords_eq_ok (n : Nat) (fs rest : List PortField) (ws : List Half) :
    takeWords n fs = .ok (ws, rest) ↔ ws.length = n ∧ fs = ws.map .half ++ rest := by
  induction n generalizing fs ws with
  | zero =>
    simp only [takeWords, Except.ok.injEq, Prod.mk.injEq, List.length_eq_zero_iff]
    constructor
    · rintro ⟨rfl, rfl⟩
      exact ⟨rfl, rfl⟩
    · rintro ⟨rfl, rfl⟩
      exact ⟨rfl, rfl⟩
  | succ n ih =>
    constructor
    · intro h
      match fs with
      | .half w :: fs =>
        simp only [takeWords] at h
        cases htail : takeWords n fs with
        | error e => simp [htail, Except.map] at h
        | ok p =>
          obtain ⟨us, r⟩ := p
          obtain ⟨hlen, hfs⟩ := (ih fs us).1 (by
            simp only [htail, Except.map, Except.ok.injEq, Prod.mk.injEq] at h
            rw [htail, h.2])
          simp only [htail, Except.map, Except.ok.injEq, Prod.mk.injEq] at h
          obtain ⟨rfl, rfl⟩ := h
          exact ⟨by simp [hlen], by simp [hfs]⟩
      | [] => simp [takeWords] at h
      | .byte _ :: _ => simp [takeWords] at h
      | .time _ :: _ => simp [takeWords] at h
      | .detail _ :: _ => simp [takeWords] at h
    · rintro ⟨hlen, rfl⟩
      match ws with
      | w :: ws =>
        have := (ih (ws.map .half ++ rest) ws).2 ⟨by simpa using hlen, rfl⟩
        simp [takeWords, this, Except.map]

/-- `takeBlock` answers exactly LEN and the LEN words after it. -/
theorem takeBlock_eq_ok (fs rest : List PortField) (len : Half) (ws : List Half) :
    takeBlock fs = .ok ((len, ws), rest) ↔ ws.length = len.toNat ∧ fs = .half len :: (ws.map .half ++ rest) := by
  constructor
  · intro h
    match fs with
    | .half n :: fs =>
      simp only [takeBlock] at h
      cases htail : takeWords n.toNat fs with
      | error e => simp [htail, Except.map] at h
      | ok p =>
        obtain ⟨us, r⟩ := p
        simp only [htail, Except.map, Except.ok.injEq, Prod.mk.injEq] at h
        obtain ⟨⟨rfl, rfl⟩, rfl⟩ := h
        obtain ⟨hlen, hfs⟩ := (takeWords_eq_ok _ _ _ _).1 htail
        exact ⟨hlen, by rw [hfs]⟩
    | [] => simp [takeBlock] at h
    | .byte _ :: _ => simp [takeBlock] at h
    | .time _ :: _ => simp [takeBlock] at h
    | .detail _ :: _ => simp [takeBlock] at h
  · rintro ⟨hlen, rfl⟩
    simp [takeBlock, (takeWords_eq_ok len.toNat _ rest ws).2 ⟨hlen, rfl⟩, Except.map]

/-- `takeTime` answers exactly a TS field. -/
theorem takeTime_eq_ok (fs rest : List PortField) (t : TS) :
    takeTime fs = .ok (t, rest) ↔ fs = .time t :: rest := by
  match fs with
  | .time u :: fs => simp [takeTime]
  | [] => simp [takeTime]
  | .half _ :: _ => simp [takeTime]
  | .byte _ :: _ => simp [takeTime]
  | .detail _ :: _ => simp [takeTime]

/-- `takeDetail` answers exactly a DETAIL field. -/
theorem takeDetail_eq_ok (fs rest : List PortField) (d : Detail) :
    takeDetail fs = .ok (d, rest) ↔ fs = .detail d :: rest := by
  match fs with
  | .detail u :: fs => simp [takeDetail]
  | [] => simp [takeDetail]
  | .half _ :: _ => simp [takeDetail]
  | .byte _ :: _ => simp [takeDetail]
  | .time _ :: _ => simp [takeDetail]

end Sys2Proof
end

