-- ==== Sys2Proof/Tests/Slice0.lean ====
section
/-!
SUPPORT. Tests of the model, with expected values from 95_test_vectors.md or worked by hand from the rules, and for each
obligation with hypotheses a theorem that shows states and operands that meet them (`witness_<obligation>`).
-/

namespace Sys2Proof.Tests

open Sys2Proof Sys2Proof.Machine

/-- The timestamp T0. -/
def t0 : TS := ⟨['T', '0']⟩

/-- The detail "timeout". -/
def timeout : Detail := ⟨"timeout".toList⟩

/-- The block of vector L1-E2E. -/
def e2e : List Half :=
  [0x9A99, 0x193F] ++ List.replicate 15 0 ++
    [0x4041, 0x9A99, 0x4141, 0x3333, 0x4341, 0xCDCC, 0x4441, 0x0000, 0x0000, 0x0200, 0x0000, 0x0007]

/-- The next state of an outcome; the reset state where there is none. -/
def after : Host.Outcome State Fault Refusal → State
  | .next s => s
  | .fault _ => State.reset
  | .refused _ => State.reset

/-- The state after program P1. -/
def p1 : State := after (exec (.cycle 29 e2e t0) State.reset)

/-- Parameters that are not the defaults: AutoRunning, welding, address 9. -/
def otherInit : Config.Init := { status := .autoRunning, weld := true, addr := 9 }

/-- SESSION and RESULT. -/
def sr (s : State) : Option (Word × Word) :=
  match hostRead s 0x01, hostRead s 0x02 with
  | .ok a, .ok b => some (a, b)
  | _, _ => none

/-- The value of one host read. -/
def rd (s : State) (off : Nat) : Option Word := (hostRead s off).toOption

/-- The port decoder's answer, without the reason of a refusal. -/
def dec (fs : List PortField) : Option (Instr × List PortField) := (decodePort fs).toOption

/-- Whether the port decoder refuses for this reason. -/
def decFails (fs : List PortField) (e : PortError) : Bool :=
  match decodePort fs with
  | .ok _ => false
  | .error e' => e' == e

/-! ### Well-formedness: each check refuses an ill-formed term -/

theorem test_wf_cycle_len_mismatch : (Instr.cycle 2 [0x9A99] t0).wellFormed = false := by decide
theorem test_wf_cycle : (Instr.cycle 2 [0x9A99, 0x193F] t0).wellFormed = true := by decide
theorem test_wf_decode_len_mismatch : (Instr.decode 0 [0x0000]).wellFormed = false := by decide
theorem test_wf_rsv_zero : (Instr.illegalRsv 0x07).wellFormed = false := by decide
theorem test_wf_rsv_one : (Instr.illegalRsv 0x08).wellFormed = true := by decide

/-! ### Decoding: the CMD bytes of 30_encoding.md R72, bit by bit -/

theorem test_decode_nop : dec [.byte 0b00000000, .half 1] = some (.nop, [.half 1]) := by decide
theorem test_decode_register : dec [.byte 0b00000001] = some (.register, []) := by decide
theorem test_decode_cycle :
    dec [.byte 0b00000010, .half 2, .half 0x9A99, .half 0x193F, .time t0, .byte 0] =
      some (.cycle 2 [0x9A99, 0x193F] t0, [.byte 0]) := by decide
theorem test_decode_cycle_fail :
    dec [.byte 0b00000011, .time t0, .detail timeout] = some (.cycleFail t0 timeout, []) := by decide
theorem test_decode_decode :
    dec [.byte 0b00000100, .half 1, .half 0x1234, .half 5] = some (.decode 1 [0x1234], [.half 5]) := by decide
theorem test_decode_illegal_op5 : dec [.byte 0b00000101] = some (.illegalOp5, []) := by decide
theorem test_decode_illegal_op6 : dec [.byte 0b00000110] = some (.illegalOp6, []) := by decide
theorem test_decode_illegal_op7 : dec [.byte 0b00000111] = some (.illegalOp7, []) := by decide
/-- L2-CMD-4: RSV 1 and OP 2 is illegal, not a CYCLE, and takes no operands. -/
theorem test_decode_illegal_rsv : dec [.byte 0b00001010, .half 0] = some (.illegalRsv 0x0A, [.half 0]) := by decide
/-- L2-CMD-5: RSV 0x1F and OP 0 is illegal, not a NOP. -/
theorem test_decode_illegal_rsv_top : dec [.byte 0b11111000] = some (.illegalRsv 0xF8, []) := by decide

theorem test_decode_refuses_by_name :
    decFails [] .noCommand ∧ decFails [.half 0] .notACommandByte ∧ decFails [.byte 2] .missingLen ∧
      decFails [.byte 4, .half 2, .half 0] .missingWords ∧ decFails [.byte 2, .half 0] .missingTime ∧
      decFails [.byte 3, .time t0] .missingDetail := by decide

theorem test_table_words :
    [0x00, 0x01, 0x02, 0x03, 0x04, 0x05, 0x06, 0x07, 0x08, 0xFF].map (decodeTableWord 8) =
      [some .nop, some .register, some (.cycle 0 [] ⟨[]⟩), some (.cycleFail ⟨[]⟩ ⟨[]⟩), some (.decode 0 []),
        some .illegalOp5, some .illegalOp6, some .illegalOp7, some (.illegalRsv 0x08), some (.illegalRsv 0xFF)] := by
  decide

/-! ### One step of each command (95_test_vectors.md L1, L2-CMD, L2-LEN, L2-CL) -/

theorem test_nop_keeps_result : sr (after (step { p1 with port := [.byte 0] })) = some (0x00070009, 0xE0) := by
  decide +kernel

/-- L2-CMD-2. -/
theorem test_register_after_p1 :
    let s := after (exec .register p1)
    sr s = some (0, 0) ∧ rd s 0x10 = some 0 ∧ s.evq.length = 3 := by decide +kernel

/-- P1: SESSION and RESULT, and three read-map values of L2-RD. -/
theorem test_cycle_e2e :
    sr p1 = some (0x00070009, 0x000000E0) ∧
      [0x10, 0x18, 0x1B, 0x25, 0x28].map (rd p1) =
        [some 0x3F19999A, some 0x41400000, some 0x4144CCCD, some 2, some 7] := by decide +kernel

/-- L1-E2E: the three records; 0x403E000014000000 is the binary64 pattern of 30.0000011920928955078125. -/
theorem test_cycle_e2e_records :
    p1.evq =
      [.measurement #v[0x41400000, 0x4141999A, 0x41433333, 0x4144CCCD] #v[0x403E000014000000, 0, 0, 0] .autoRunning true 7 t0,
        .statusChanged .autoRunning 7 t0, .wmStatusChanged true 7 t0] := by decide +kernel

/-- L2-CMD-9: 28 words give SHORT_READ and keep the latch. -/
theorem test_cycle_short :
    let s := after (exec (.cycle 28 (e2e.take 28) t0) p1)
    sr s = some (0x00070009, 0x0A) ∧ rd s 0x10 = some 0x3F19999A ∧
      s.errq = [{ kind := .decode, reason := .shortRead, cmd := 0x02, time := some t0, detail := none }] := by
  decide +kernel

/-- L2-CMD-7. -/
theorem test_cycle_fail_after_p1 :
    let s := after (exec (.cycleFail t0 timeout) p1)
    sr s = some (0x00070009, 0x01) ∧ rd s 0x10 = some 0x3F19999A ∧
      s.errq = [{ kind := .transport, reason := .none, cmd := 0x03, time := some t0, detail := some timeout }] := by
  decide +kernel

/-- L2-CMD-8. -/
theorem test_decode_after_p1 :
    let s := after (exec (.decode 29 (blockWords (#v[0x3F800000, 0, 0, 0, 0, 0, 0, 0, 0, 0, 0, 0]) (Vector.replicate 8 0) 3)) p1)
    sr s = some (0x00070009, 0x20) ∧ rd s 0x10 = some 0x3F800000 ∧ rd s 0x28 = some 3 ∧ s.evq = p1.evq := by
  decide +kernel

/-- L2-LEN: 30 words are a LENGTH_MISMATCH. -/
theorem test_decode_long : sr (after (exec (.decode 30 (e2e ++ [0x1234])) State.reset)) = some (0, 0x12) := by
  decide +kernel

/-- L2-CMD-6 and L2-CMD-3. -/
theorem test_illegal_op5 : sr (after (exec .illegalOp5 State.reset)) = some (0, 0x03) := by decide +kernel
theorem test_illegal_op6 : sr (after (exec .illegalOp6 State.reset)) = some (0, 0x03) := by decide +kernel
theorem test_illegal_op7 :
    let s := after (exec .illegalOp7 p1)
    sr s = some (0x00070009, 0x23) ∧
      s.errq = [{ kind := .illegalCmd, reason := .none, cmd := 0x07, time := none, detail := none }] := by
  decide +kernel
theorem test_illegal_rsv :
    (after (exec (.illegalRsv 0xF8) State.reset)).errq =
      [{ kind := .illegalCmd, reason := .none, cmd := 0xF8, time := none, detail := none }] := by decide +kernel

/-- The table's word for DECODE runs as the first command after reset: an empty block, 0x0A (L2-LEN). -/
theorem test_fetch_word_runs : sr (after (step (State.reset.withFetchWord 8 0x04))) = some (0, 0x0A) := by decide +kernel

/-- Program P3, line 3: after reset a `.cmd 0x0A` on the port is one step. -/
theorem test_assembled_cmd :
    (assembleLine ".cmd 0x0A ; P3".toList).map (fun fs => sr (after (step { State.reset with port := fs }))) =
      some (some (0, 0x03)) := by decide +kernel

/-! ### The decoder's and the classifier's values -/

/-- L1-RT. -/
theorem test_remap :
    [(0x9A99, 0x193F), (0x7856, 0x3412), (0x0100, 0xC07F), (0x0000, 0x0080), (0x0100, 0x0000), (0xFFFF, 0xFFFF)].map
        (fun p : Half × Half => remap p.1 p.2) =
      [0x3F19999A, 0x12345678, 0x7FC00001, 0x80000000, 0x00000001, 0xFFFFFFFF] := by decide +kernel

/-- L1-DG. -/
theorem test_digital_order : lo8 0xABCD = 0xCD ∧ hi8 0xABCD = 0xAB := by decide

/-- L2-WV, the patterns that are not NaNs. -/
theorem test_weld_test :
    [0x00000000, 0x3F199999, 0x3F19999A, 0x3F19999B, 0x3F19984A, 0x7F7FFFFF, 0x7F800000, 0x80000000, 0xBF800000,
        0xFF800000].map (fun b => weldTest (scaleCurrent 0 b)) =
      [false, false, true, true, false, true, true, false, false, false] := by decide +kernel

/-- L2-WV, a NaN: inactive whichever NaN the current is. -/
theorem test_weld_test_nan : weldTest (scaleCurrent (nan64 true 0) 0x7F800001) = false := by decide +kernel

/-- L1-ST and a row of L2-ST. -/
theorem test_status :
    [(0, 0, 1), (1, 0, 0), (2, 0, 0), (0, 1, 0), (0, 2, 0), (0, 0, 0), (3, 0, 0), (1, 0, 1), (0, 3, 0), (3, 3, 1)].map
        (fun d : Byte × Byte × Byte => deriveStatus d.1 d.2.1 d.2.2 .menuIdle) =
      [.stopped, .autoIdle, .autoRunning, .menuIdle, .menuRunning, .powerOff, .menuIdle, .autoIdle, .menuIdle,
        .stopped] := by decide

/-- L2-CL-8 without its NaN: an infinite current is active; the status 3 is retained as the same value. -/
theorem test_classify_infinite :
    let tel : Telemetry := { floats := #v[0, 0x7F800000, 0, 0, 0, 0, 0, 0, 0, 0, 0, 0], dig := #v[0, 0, 0, 0, 0, 0, 2, 0], addr := 9 }
    let c := classify 0 tel .menuRunning true t0
    c.status = .menuRunning ∧ c.weld = true ∧ c.events.length = 1 := by decide +kernel

/-- R25: an INIT_STATUS outside 0..5 is refused. -/
theorem test_init_status_refused : (initOfCodes 6 false 0).toOption = none ∧ (initOfCodes 5 true 1).toOption.isSome := by
  decide

/-! ### The host's side -/

/-- L2-RD: reserved offsets and the end of the map. -/
theorem test_reserved_offsets : [0x03, 0x1C, 0x3F, 0x40].map (rd p1) = [some 0, some 0, some 0, none] := by decide +kernel

/-- L2-FMT; the binary64 patterns are those of 0.0005, 0.00025 and -0.0004. -/
theorem test_fmt3 :
    [FloatPattern.single 0x41C80000, .single 0x3D800000, .single 0x3E400000, .single 0x4141999A, .single 0x80000000,
        .single 0xBFC00000, .double 0x3F40624DD2F1A9FC, .double 0x3F30624DD2F1A9FC, .double 0xBF3A36E2EB1C432D].map fmt3 =
      ["25.000".toList, "0.062".toList, "0.188".toList, "12.100".toList, "-0.000".toList, "-1.500".toList,
        "0.001".toList, "0.000".toList, "-0.000".toList] := by decide +kernel

/-- L2-FMT: the greatest current. -/
theorem test_fmt3_greatest :
    fmt3 (.double (scaleCurrent 0 0x7F7FFFFF)) = "17014117331926442990585209174225846272000.000".toList := by decide +kernel

/-- L2-FMT. -/
theorem test_id_text : idText 4660 = "4660".toList ∧ idText 0 = "0".toList ∧ idText 65535 = "65535".toList := by
  decide +kernel

/-- P1's EVHDR of the Measurement by hand: id 7, weld 1, status 1, KIND 0. -/
theorem test_event_header :
    (p1.evq.map eventHeader) = [0x00070024, 0x00070005, 0x00070022] := by decide +kernel

/-- P3's first error record on a bus by hand: kind 2, reason 1, CMD 0x02, time present. -/
theorem test_error_header :
    errorHeader { kind := .decode, reason := .shortRead, cmd := 0x02, time := some t0, detail := none } = 0x0001020A := by
  decide

/-- The line of program P1 assembles to the fields of L1-E2E. -/
theorem test_assemble_p1 :
    assembleLine
        "CYCLEB ts=<T0>, BLOCK(f=[0.6,0,0,0,0,0,0,0,12.0,12.1,12.2,12.3], d=[0,0,0,0,0,2,0,0], a=7)".toList =
      some (encode (.cycle 29 e2e t0)) := by decide +kernel

/-- R40: SESSION after power-on with other parameters, and after REGISTER: {9, 0, 1, AutoRunning}. -/
theorem test_other_parameters :
    sr (State.resetWith otherInit) = some (0x00090009, 0) ∧
      sr (after (exec .register (State.resetWith otherInit))) = some (0x00090009, 0) := by decide +kernel

/-- R179's example: 2026-11-11T10:00:00+01:00. -/
theorem test_iso_text :
    isoText { year := 2026, month := 10, day := 10, hour := 10, minute := 0, second := some (0, []),
              offset := .numeric false 1 0 } = "2026-11-11T10:00:00+01:00".toList := by decide +kernel

/-- The wordCount of the transport call is 29. -/
theorem test_boot_reads_29_words :
    (boot ⟨[], 9600, [], 1, 1, [], 17, 1⟩ State.reset).toOption.map (·.2) = some ⟨17, 29⟩ := by decide +kernel

/-! ### Witnesses: the obligations' hypotheses can be met -/

/-- Every command ends in a next state, so a premise `exec i s = .next t` is met for every command and state. -/
theorem exec_after (i : Instr) (s : State) : exec i s = .next (after (exec i s)) := by
  cases i with
  | cycle len words ts =>
    rcases execCycle_cases len words ts s with ⟨-, h⟩ | ⟨-, h⟩ | ⟨-, h⟩ <;> simp only [exec, h, after]
  | decode len words =>
    rcases execDecode_cases len words s with ⟨-, h⟩ | ⟨-, h⟩ | ⟨-, h⟩ <;> simp only [exec, h, after]
  | nop => rfl
  | register => rfl
  | cycleFail ts d => rfl
  | illegalOp5 => rfl
  | illegalOp6 => rfl
  | illegalOp7 => rfl
  | illegalRsv c => rfl

/-- The reset state with commands issued. -/
def issued (is : List Instr) : State := { State.reset with port := is.flatMap encode }

theorem witness_DecodeReadsBackEveryEncoding :
    ∀ i ∈ [Instr.cycle 0 [] t0, .cycle 2 [0x9A99, 0x193F] t0, .decode 1 [7], .illegalRsv 0x08, .illegalRsv 0xFF],
      i.wellFormed = true := by decide

theorem witness_DecodeTakesExactlyOneEncoding :
    decodePort [.byte 2, .half 1, .half 9, .time t0, .byte 0] = .ok (.cycle 1 [9] t0, [.byte 0]) := rfl

theorem witness_ReservedBytesPerformIllegalCommand : 5 ≤ (0x05 : Byte).toNat ∧ 5 ≤ (0xFF : Byte).toNat := by decide

theorem witness_TableRowsPartitionCommandBytes : decodePort [.byte 0x08, .half 1] = .ok (.illegalRsv 0x08, [.half 1]) := rfl

theorem witness_StepRunsTheDecodedCommand :
    decodePort (issued [.decode 1 [9], .nop]).port = .ok (.decode 1 [9], encode .nop) := rfl

theorem witness_EmptyPortStepHoldsTheState : State.reset.port = [] := rfl

theorem witness_TypedHostIsNeverRefused : TypedPort (issued [.cycle 1 [9] t0, .illegalRsv 0x08]) :=
  ⟨[.cycle 1 [9] t0, .illegalRsv 0x08], by decide, rfl⟩

theorem witness_DecodeCommandLatchesEveryChannel : (29 : Half).toNat = 29 ∧ e2e.length = 29 := by decide

/-- Lengths 0, 28, 30 and 65535, each with as many words. -/
theorem witness_DecodeCommandRejectsOtherLengths :
    ((0 : Half).toNat ≠ 29 ∧ (28 : Half).toNat ≠ 29 ∧ (30 : Half).toNat ≠ 29 ∧ (65535 : Half).toNat ≠ 29) ∧
      ∀ len : Half, ∃ v : List Half, v.length = len.toNat :=
  ⟨by decide, fun len => ⟨List.replicate len.toNat 7, List.length_replicate⟩⟩

theorem witness_CycleRunsTheWholePipeline : (29 : Half).toNat = 29 ∧ e2e.length = 29 := by decide

theorem witness_CycleRejectsOtherLengths :
    ((0 : Half).toNat ≠ 29 ∧ (28 : Half).toNat ≠ 29 ∧ (30 : Half).toNat ≠ 29 ∧ (65535 : Half).toNat ≠ 29) ∧
      ∀ len : Half, ∃ v : List Half, v.length = len.toNat :=
  ⟨by decide, fun len => ⟨List.replicate len.toNat 7, List.length_replicate⟩⟩

theorem witness_ReservedCommandsComplete :
    ∀ i ∈ [Instr.illegalOp5, .illegalOp6, .illegalOp7, .illegalRsv 0x08, .illegalRsv 0xFF],
      i = .illegalOp5 ∨ i = .illegalOp6 ∨ i = .illegalOp7 ∨ ∃ c, i = .illegalRsv c := by
  intro i h
  fin_cases h <;> simp

theorem witness_FirstCycleComparesWithTheDefaults :
    ∃ t u, (29 : Half).toNat = 29 ∧ p1.init = State.reset.init ∧ exec .register p1 = .next t ∧
      exec (.cycle 29 e2e t0) t = .next u :=
  ⟨_, _, rfl, by decide +kernel, exec_after _ _, exec_after _ _⟩

theorem witness_FirstCycleComparesWithTheParameters :
    ∃ t u, (29 : Half).toNat = 29 ∧ exec .register (State.resetWith otherInit) = .next t ∧
      exec (.cycle 29 e2e t0) t = .next u :=
  ⟨_, _, rfl, exec_after _ _, exec_after _ _⟩

/-- The last status code of a parameter, and the first that is refused. -/
theorem witness_ParametersComeFromTheirCodes : (5 : BitVec 3).toNat ≤ 5 ∧ 5 < (6 : BitVec 3).toNat := by decide

theorem witness_ParametersAreNeverWritten :
    ∃ t, step { State.resetWith otherInit with port := encode .register } = .next t := ⟨_, rfl⟩

theorem witness_FloatFieldsOfTheWordPair : (0x3F19999A : Word) = remap 0x9A99 0x193F := by decide

/-- Two telemetries that agree in the three status channels alone. -/
theorem witness_StatusReadsOnlyStatusChannels :
    let tel : Telemetry := { floats := Vector.replicate 12 0, dig := #v[0, 0, 0, 0, 0, 3, 2, 1], addr := 0 }
    let tel' : Telemetry := { floats := Vector.replicate 12 0x3F800000, dig := #v[1, 2, 3, 4, 5, 3, 2, 1], addr := 9 }
    tel.dig[5] = tel'.dig[5] ∧ tel.dig[6] = tel'.dig[6] ∧ tel.dig[7] = tel'.dig[7] := by decide +kernel

/-- A NaN, and for each clause a pattern at the edge of its range. -/
theorem witness_CurrentIsExactlyFiftyTimes :
    f64 (nan64 false 0) = .nan ∧
    f32 0x00000000 = .fin false 0 (-149) ∧ f32 0x80000000 = .fin true 0 (-149) ∧ f32 0x00000001 = .fin false 1 (-149) ∧
    f32 0x7F7FFFFF = .fin false 0xFFFFFF 104 ∧ f32 0x7F800000 = .inf false ∧ f32 0xFF800000 = .inf true ∧
    f32 0x7F800001 = .nan ∧ f32 0xFFFFFFFF = .nan := by decide +kernel

theorem witness_WeldTestIsThePatternComparator : f64 (nan64 true 1) = .nan := by decide +kernel

/-- The least and the greatest NaN, and a telemetry with a NaN in float channel 3. -/
theorem witness_FreeNaNRangesOverAllNaNs :
    f64 0x7FF0000000000001 = .nan ∧ f64 0xFFFFFFFFFFFFFFFF = .nan ∧
      f32 (#v[0, 0, 0, 0x7FC00000, 0, 0, 0, 0, 0, 0, 0, 0] : Config.PerFloat Word)[(3 : Fin 4).val] = .nan := by
  decide +kernel

theorem witness_SecondCycleReportsOnlyChanges :
    ∃ t u, exec (.cycle 29 e2e t0) State.reset = .next t ∧ exec (.cycle 29 e2e ⟨['T', '1']⟩) t = .next u :=
  ⟨_, _, exec_after _ _, exec_after _ _⟩

/-- A failed read, a short block and a NOP before the cycle. -/
theorem witness_FailedCyclesAreInvisibleToTheEdgeDetector :
    ∀ i ∈ [Instr.cycleFail t0 timeout, .cycle 28 (e2e.take 28) t0, .nop], ∃ f t u,
      e2e.length = 29 ∧ i ≠ .register ∧ (∀ len words ts, i = .cycle len words ts → len.toNat ≠ 29) ∧
      exec i p1 = .next f ∧ exec (.cycle 29 e2e t0) f = .next t ∧ exec (.cycle 29 e2e t0) p1 = .next u := by
  intro i h
  refine ⟨_, _, _, rfl, ?_, ?_, exec_after _ _, exec_after _ _, exec_after _ _⟩
  · revert i; decide
  · intro len words ts he
    subst he
    simp only [List.mem_cons, Instr.cycle.injEq, reduceCtorEq, List.not_mem_nil, false_or, or_false] at h
    rw [h.1]
    decide

/-- An error of each kind. -/
theorem witness_ErrorOutcomeIsPrecise :
    ∀ i ∈ [Instr.cycleFail t0 timeout, .decode 0 [], .illegalRsv 0x08], i ≠ .nop ∧
      ∃ t, exec i State.reset = .next t ∧ t.result.errKind ≠ .none := by
  intro i h
  refine ⟨by revert i; decide, _, exec_after _ _, ?_⟩
  revert i
  decide +kernel

/-- Every command, CYCLE and DECODE with 29, 28 and 30 words. -/
theorem witness_EachCommandRaisesItsErrors :
    ∀ i ∈ [Instr.nop, .register, .cycle 29 e2e t0, .cycle 28 [] t0, .cycle 30 [] t0, .cycleFail t0 timeout, .decode 29 e2e,
        .decode 28 [], .decode 30 [], .illegalOp5, .illegalOp6, .illegalOp7, .illegalRsv 0x08],
      ∃ t, exec i State.reset = .next t :=
  fun i _ => ⟨_, exec_after i _⟩

theorem witness_StreamsOnlyGrow : ∃ t, step (issued [.cycleFail t0 timeout]) = .next t := ⟨_, rfl⟩

theorem witness_EventCountIsTheNumberEmitted :
    Instr.cycle 29 e2e t0 ≠ .nop ∧ exec (.cycle 29 e2e t0) State.reset = .next p1 :=
  ⟨by decide, exec_after _ _⟩

theorem witness_OnlyRegisterAndCycleWriteTheSession :
    exec (.cycle 29 e2e t0) State.reset = .next p1 ∧ p1.session ≠ State.reset.session :=
  ⟨exec_after _ _, by decide +kernel⟩

theorem witness_LatchIsAllOrNothing :
    Instr.cycle 29 e2e t0 ≠ .register ∧ exec (.cycle 29 e2e t0) State.reset = .next p1 :=
  ⟨by decide, exec_after _ _⟩

theorem witness_OnlyBlockCommandsWriteTheBuffer :
    exec (.cycle 29 e2e t0) State.reset = .next p1 ∧ (p1.w ≠ State.reset.w ∨ p1.blkLen ≠ State.reset.blkLen) :=
  ⟨exec_after _ _, .inr (by decide +kernel)⟩

/-- A sound state with an error logged and a command on the port. -/
theorem witness_EveryStepKeepsTheStateSound :
    ∃ s t, Inv s ∧ step s = .next t ∧ s.errq ≠ [] := by
  refine ⟨{ after (exec .illegalOp5 State.reset) with port := encode (.cycleFail t0 timeout) }, _,
    ⟨?_, ⟨?_, ?_, ?_, ?_⟩, ?_, ?_⟩, rfl, by decide⟩
  · exact fun h => absurd h (by decide)
  · decide
  · decide
  · decide
  · exact fun _ => ⟨_, rfl, rfl, rfl⟩
  · intro r hr
    obtain rfl : r = { kind := .illegalCmd, reason := .none, cmd := 0x05, time := none, detail := none } := by
      simpa [after, exec, execIllegalOp5, illegal, raiseError, log, State.reset, State.resetWith] using hr
    exact ⟨rfl, rfl, rfl, rfl⟩
  · exact ⟨[], by simp, rfl⟩

/-- Two states that differ in W and BLK_LEN. -/
theorem witness_BufferIsNeverObservable :
    SameButBuffer (issued [.decode 1 [9]]) { issued [.decode 1 [9]] with w := Vector.replicate 29 1, blkLen := 5 } := by
  simp only [SameButBuffer]

/-- The first and last offset of each range, and the first that does not exist. -/
theorem witness_OtherOffsetsReadZeroOrAreRefused :
    (∀ off ∈ [0x03, 0x0F, 0x1C, 0x1F, 0x29, 0x3F],
      (0x03 ≤ off ∧ off ≤ 0x0F) ∨ (0x1C ≤ off ∧ off ≤ 0x1F) ∨ (0x29 ≤ off ∧ off ≤ 0x3F)) ∧ 0x40 ≤ 0x40 := by decide

/-- An exact tie that rounds down to the even number, and one that rounds up. -/
theorem witness_ThousandthsRoundToNearestEven :
    |(thousandths 1 (-4) : ℚ) - real false 1 (-4) * 1000| = 1 / 2 ∧
      |(thousandths 3 (-4) : ℚ) - real false 3 (-4) * 1000| = 1 / 2 := by
  have h1 : thousandths 1 (-4) = 62 := by decide +kernel
  have h3 : thousandths 3 (-4) = 188 := by decide +kernel
  rw [h1, h3]
  constructor <;> norm_num [real, abs_of_nonpos, abs_of_nonneg]

/-- A time for each precision and each kind of offset. -/
theorem witness_TimeTextIsIso8601WithOffset :
    ∃ z z' z'' : Config.ZonedTime, z.second = none ∧ z.offset = .utc ∧ z'.second = some (60, []) ∧
      z'.offset = .numeric true 23 59 ∧ z''.second = some (59, [0, 9]) :=
  ⟨⟨0, 0, 0, 0, 0, none, .utc⟩, ⟨9999, 11, 30, 23, 59, some (60, []), .numeric true 23 59⟩,
    ⟨2026, 10, 10, 10, 0, some (59, [0, 9]), .utc⟩, rfl, rfl, rfl, rfl, rfl⟩

theorem witness_MessagesHaveTheirKeysAndValues : (1 : Half) ≠ 0 := by decide

theorem witness_DecimalTextReadsBack : (1 : Nat) ≠ 0 := by decide

theorem witness_PollCycleIssuesOneCommand :
    ([] : List Half).length < 65536 ∧ (List.replicate 65535 (0 : Half)).length < 65536 ∧
      65536 ≤ (List.replicate 65536 (0 : Half)).length ∧ State.reset.port = [] := by
  simp only [List.length_replicate, List.length_nil]
  decide

theorem witness_PollCycleIssuesOneCommand_commands :
    cycleCommand t0 (.transportError timeout) = .ok (.cycleFail t0 timeout) ∧
      ∃ e, cycleCommand t0 (.block (List.replicate 65536 0)) = .error e :=
  ⟨rfl, _, by rw [cycleCommand, if_neg (by rw [List.length_replicate]; omega)]⟩

/-- A finite value, an infinity and a NaN to render. -/
theorem witness_FixedThreeWritesTheThousandths :
    datum (.single 0x80000000) = .fin true 0 (-149) ∧ datum (.double 0x7FF0000000000000) = .inf false ∧
      datum (.single 0x7FC00000) = .nan := by decide +kernel

theorem witness_InstancesAreIndependent :
    ∃ f g h : Fleet, 0 ≠ 1 ∧ stepInstance 0 f = .next g ∧ stepInstance 1 g = .next h ∧ f.blocks.length = 2 :=
  ⟨⟨[issued [.illegalOp5], issued [.illegalOp6]]⟩, _, _, by decide, rfl, rfl, rfl⟩

end Sys2Proof.Tests
end

section
/-!
PROOFS. The host read map (10_state.md R34 to R38): one equation of `hostRead` for each part of the map, the fields of the
words it answers, and the obligations of `10_state.md`.
-/

namespace Sys2Proof.Proofs.HostRead

open Sys2Proof Sys2Proof.Machine

/-! ### Words with zeros above a narrower value -/

/-- Zero extension puts zeros above the value (the `zext_32` of R38). -/
theorem setWidth_add_eq_zero_append {v : Nat} (n : Nat) (x : BitVec v) : x.setWidth (n + v) = 0#n ++ x := by
  ext i hi
  by_cases hv : i < v
  · simp [BitVec.getElem_append, hv]
  · simp [BitVec.getElem_append, hv, BitVec.getLsbD_of_ge x i (by omega)]

/-! ### The codes -/

theorem statusCode_toNat_le (s : MachineStatus) : (statusCode s).toNat ≤ 5 := by
  cases s <;> decide

theorem kindCode_toNat_le (k : ErrKind) : (kindCode k).toNat ≤ 3 := by
  cases k <;> decide

theorem reasonCode_toNat_le (r : ErrReason) : (reasonCode r).toNat ≤ 2 := by
  cases r <;> decide

theorem statusCodesAsGiven : StatusCodesAsGiven :=
  ⟨rfl, rfl, rfl, rfl, rfl, rfl, statusCode_toNat_le⟩

theorem errorCodesAsGiven : ErrorCodesAsGiven :=
  ⟨rfl, rfl, rfl, rfl, kindCode_toNat_le, rfl, rfl, rfl, reasonCode_toNat_le⟩

/-! ### The parts of the read map -/

section
variable (s : State)

@[simp] theorem hostRead_param : hostRead s 0x00 = .ok paramWord := rfl
@[simp] theorem hostRead_session : hostRead s 0x01 = .ok (sessionWord s) := rfl
@[simp] theorem hostRead_result : hostRead s 0x02 = .ok (resultWord s) := rfl

@[simp] theorem hostRead_float (i : Fin 12) : hostRead s (0x10 + i) = .ok s.latch.floats[i] := by
  have hi : 0x10 ≤ 0x10 + (i : Nat) ∧ 0x10 + (i : Nat) < 0x10 + Config.F := by simp only [Config.F]; omega
  simp only [hostRead]
  rw [if_neg (by omega), if_neg (by omega), if_neg (by omega), dif_pos hi]
  simp only [Nat.add_sub_cancel_left, Fin.getElem_fin]

@[simp] theorem hostRead_digital (j : Fin 8) : hostRead s (0x20 + j) = .ok (s.latch.dig[j].setWidth 32) := by
  have hf : ¬(0x10 ≤ 0x20 + (j : Nat) ∧ 0x20 + (j : Nat) < 0x10 + Config.F) := by simp only [Config.F]; omega
  have hj : 0x20 ≤ 0x20 + (j : Nat) ∧ 0x20 + (j : Nat) < 0x20 + Config.C := by simp only [Config.C]; omega
  simp only [hostRead]
  rw [if_neg (by omega), if_neg (by omega), if_neg (by omega), dif_neg hf, dif_pos hj]
  simp only [Nat.add_sub_cancel_left, Fin.getElem_fin]

@[simp] theorem hostRead_addr : hostRead s 0x28 = .ok (s.latch.addr.setWidth 32) := rfl

/-! ### The fields of SESSION (R36) -/

theorem sessionWord_prevStatus : (sessionWord s).extractLsb' 0 3 = statusCode s.session.prevStatus :=
  BitVec.extractLsb'_append_eq_right

theorem sessionWord_prevWeld : (sessionWord s).getLsbD 3 = s.session.prevWeld := by
  rw [sessionWord, BitVec.getLsbD_append, if_neg (by decide), BitVec.getLsbD_append, if_pos (by decide)]
  simp

theorem sessionWord_zeros : (sessionWord s).extractLsb' 4 12 = 0 := by
  rw [sessionWord, BitVec.extractLsb'_append_eq_of_le (by decide), BitVec.extractLsb'_append_eq_of_le (by decide)]
  exact BitVec.extractLsb'_append_eq_right

theorem sessionWord_lastAddr : (sessionWord s).extractLsb' 16 16 = s.session.lastAddr := by
  rw [sessionWord, BitVec.extractLsb'_append_eq_of_le (by decide), BitVec.extractLsb'_append_eq_of_le (by decide)]
  exact BitVec.extractLsb'_append_eq_left

/-! ### The fields of RESULT (R37) -/

theorem resultWord_errKind : (resultWord s).extractLsb' 0 3 = kindCode s.result.errKind :=
  BitVec.extractLsb'_append_eq_right

theorem resultWord_errReason : (resultWord s).extractLsb' 3 2 = reasonCode s.result.errReason := by
  rw [resultWord, BitVec.extractLsb'_append_eq_of_le (by decide)]
  exact BitVec.extractLsb'_append_eq_right

theorem resultWord_telValid : (resultWord s).getLsbD 5 = s.telValid := by
  rw [resultWord, BitVec.getLsbD_append, if_neg (by decide), BitVec.getLsbD_append, if_neg (by decide),
    BitVec.getLsbD_append, if_pos (by decide)]
  simp

theorem resultWord_evCount : (resultWord s).extractLsb' 6 2 = s.result.evCount := by
  rw [resultWord, BitVec.extractLsb'_append_eq_of_le (by decide), BitVec.extractLsb'_append_eq_of_le (by decide),
    BitVec.extractLsb'_append_eq_of_le (by decide)]
  exact BitVec.extractLsb'_append_eq_right

theorem resultWord_zeros : (resultWord s).extractLsb' 8 24 = 0 := by
  rw [resultWord, BitVec.extractLsb'_append_eq_of_le (by decide), BitVec.extractLsb'_append_eq_of_le (by decide),
    BitVec.extractLsb'_append_eq_of_le (by decide)]
  exact BitVec.extractLsb'_append_eq_left

end

/-! ### The obligations -/

/-- Settles O45: PARAM is a constant of the read map, so no state enters it. -/
theorem paramIsConstant : Obligations.ParamIsConstant := by
  unfold Obligations.ParamIsConstant
  intro s
  have hp : paramWord = 0x1D01080C := by decide
  rw [hostRead_param, hp]

/-- Settles O46, field by field. -/
theorem sessionWordFields : Obligations.SessionWordFields :=
  ⟨statusCodesAsGiven, fun s => ⟨sessionWord s, hostRead_session s, sessionWord_prevStatus s, sessionWord_prevWeld s,
    sessionWord_zeros s, sessionWord_lastAddr s⟩⟩

/-- Settles O47, field by field. -/
theorem resultWordFields : Obligations.ResultWordFields :=
  ⟨errorCodesAsGiven, fun s => ⟨resultWord s, hostRead_result s, resultWord_errKind s, resultWord_errReason s,
    resultWord_telValid s, resultWord_evCount s, resultWord_zeros s⟩⟩

/-- Settles O48: each part of the map that reads the latch, none of which looks at TEL_VALID. -/
theorem telemetryOffsetsReadTheLatch : Obligations.TelemetryOffsetsReadTheLatch := by
  unfold Obligations.TelemetryOffsetsReadTheLatch
  intro s
  refine ⟨hostRead_float s, fun j => ?_, ?_⟩
  · rw [hostRead_digital, setWidth_add_eq_zero_append 24 s.latch.dig[j]]
  · rw [hostRead_addr, setWidth_add_eq_zero_append 16 s.latch.addr]

end Sys2Proof.Proofs.HostRead
end

section
/-!
PROOFS. The fields of packed words (30_encoding.md): where the bits of a float lie in its word pair (R77), and the header
of an event record on a bus (R83), with the obligations of `30_encoding.md` about them.
-/

namespace Sys2Proof.Proofs.EncodingFields

open Sys2Proof Sys2Proof.Machine

/-! ### Fields of fields -/

/-- A field of a field, by its position in the whole. -/
theorem extractLsb'_extractLsb'_of_add_le {w : Nat} (x : BitVec w) {start len start' len' : Nat}
    (h : start' + len' ≤ len) :
    (x.extractLsb' start len).extractLsb' start' len' = x.extractLsb' (start + start') len' := by
  ext i hi
  have hlt : start' + i < len := by omega
  simp [hlt, Nat.add_assoc]

/-- Where two vectors agree in a field, they agree in every field inside it. -/
theorem extractLsb'_congr_inside {v w : Nat} {x : BitVec v} {y : BitVec w} {a b n : Nat}
    (h : x.extractLsb' a n = y.extractLsb' b n) {start len : Nat} (hle : start + len ≤ n) :
    x.extractLsb' (a + start) len = y.extractLsb' (b + start) len := by
  rw [← extractLsb'_extractLsb'_of_add_le x hle, h, extractLsb'_extractLsb'_of_add_le y hle]

/-- Where two vectors agree in a field, they agree in every bit inside it. -/
theorem getLsbD_congr_inside {v w : Nat} {x : BitVec v} {y : BitVec w} {a b n : Nat}
    (h : x.extractLsb' a n = y.extractLsb' b n) {i : Nat} (hi : i < n) : x.getLsbD (a + i) = y.getLsbD (b + i) := by
  simpa [hi] using congrArg (·.getLsbD i) h

/-- A field cut in two, `m` bits above `n`. -/
theorem extractLsb'_eq_append {w : Nat} (x : BitVec w) (start m n : Nat) :
    x.extractLsb' start (m + n) = x.extractLsb' (start + n) m ++ x.extractLsb' start n :=
  (BitVec.extractLsb'_append_extractLsb'_eq_extractLsb' rfl).symm

/-! ### The bytes of a float's pattern (R77) -/

section
variable (lo hi : Half)

theorem remap_byte0 : (remap lo hi).extractLsb' 0 8 = lo.extractLsb' 8 8 :=
  BitVec.extractLsb'_append_eq_right

theorem remap_byte1 : (remap lo hi).extractLsb' 8 8 = lo.extractLsb' 0 8 := by
  rw [remap, BitVec.extractLsb'_append_eq_of_le (by decide)]
  exact BitVec.extractLsb'_append_eq_right

theorem remap_byte2 : (remap lo hi).extractLsb' 16 8 = hi.extractLsb' 8 8 := by
  rw [remap, BitVec.extractLsb'_append_eq_of_le (by decide), BitVec.extractLsb'_append_eq_of_le (by decide)]
  exact BitVec.extractLsb'_append_eq_right

theorem remap_byte3 : (remap lo hi).extractLsb' 24 8 = hi.extractLsb' 0 8 := by
  rw [remap, BitVec.extractLsb'_append_eq_of_le (by decide), BitVec.extractLsb'_append_eq_of_le (by decide)]
  exact BitVec.extractLsb'_append_eq_left

/-- The pattern is the two words, each with its bytes swapped. -/
theorem remap_eq_bswap16_append : remap lo hi = bswap16 hi ++ bswap16 lo :=
  BitVec.append_assoc

/-! ### Sign, exponent and fraction (R77) -/

theorem remap_sign : (remap lo hi).getLsbD 31 = hi.getLsbD 7 :=
  getLsbD_congr_inside (remap_byte3 lo hi) (i := 7) (by decide)

/-- The exponent is the low seven bits of the pattern's highest byte above the top bit of the byte below it. -/
theorem remap_exponent : (remap lo hi).extractLsb' 23 8 = hi.extractLsb' 0 7 ++ hi.extractLsb' 15 1 := by
  have high : (remap lo hi).extractLsb' 24 7 = hi.extractLsb' 0 7 :=
    extractLsb'_congr_inside (remap_byte3 lo hi) (start := 0) (by decide)
  have low : (remap lo hi).extractLsb' 23 1 = hi.extractLsb' 15 1 :=
    extractLsb'_congr_inside (remap_byte2 lo hi) (start := 7) (by decide)
  rw [← high, ← low]
  exact extractLsb'_eq_append (remap lo hi) 23 7 1

/-- The fraction is the low seven bits of the pattern's byte 2 above its bytes 1 and 0. -/
theorem remap_fraction :
    (remap lo hi).extractLsb' 0 23 = hi.extractLsb' 8 7 ++ lo.extractLsb' 0 8 ++ lo.extractLsb' 8 8 := by
  have high : (remap lo hi).extractLsb' 16 7 = hi.extractLsb' 8 7 :=
    extractLsb'_congr_inside (remap_byte2 lo hi) (start := 0) (by decide)
  calc (remap lo hi).extractLsb' 0 23
      = (remap lo hi).extractLsb' 8 15 ++ (remap lo hi).extractLsb' 0 8 := extractLsb'_eq_append (remap lo hi) 0 15 8
    _ = (remap lo hi).extractLsb' 16 7 ++ (remap lo hi).extractLsb' 8 8 ++ (remap lo hi).extractLsb' 0 8 :=
        congrArg (· ++ _) (extractLsb'_eq_append (remap lo hi) 8 7 8)
    _ = hi.extractLsb' 8 7 ++ lo.extractLsb' 0 8 ++ lo.extractLsb' 8 8 := by
        rw [high, remap_byte1 lo hi, remap_byte0 lo hi]

end

/-! ### The layout of EVHDR (R83) -/

/-- The layout the three headers share: id, ten zeros, flag, status code, KIND. -/
def headerWord (id : Half) (flag : Bool) (status : BitVec 3) (kind : BitVec 2) : Word :=
  id ++ 0#10 ++ BitVec.ofBool flag ++ status ++ kind

section
variable (U : Config.PerWeld Word) (I : Config.PerWeld Dword) (status : MachineStatus) (weld : Bool) (id : Half) (time : TS)

theorem eventHeader_measurement :
    eventHeader (.measurement U I status weld id time) = headerWord id weld (statusCode status) 0 := rfl

theorem eventHeader_statusChanged :
    eventHeader (.statusChanged status id time) = headerWord id false (statusCode status) 1 := rfl

theorem eventHeader_wmStatusChanged :
    eventHeader (.wmStatusChanged weld id time) = headerWord id weld 0 2 := rfl

/-! ### Packed records (R83): the header, then the items of the kind -/

theorem packEvent_measurement :
    packEvent (.measurement U I status weld id time) =
      .word (headerWord id weld (statusCode status) 0) :: (U.toList.map .word ++ I.toList.map .dword ++ [.time time]) := by
  rw [packEvent, eventHeader_measurement]

theorem packEvent_statusChanged :
    packEvent (.statusChanged status id time) = [.word (headerWord id false (statusCode status) 1), .time time] := by
  rw [packEvent, eventHeader_statusChanged]

theorem packEvent_wmStatusChanged :
    packEvent (.wmStatusChanged weld id time) = [.word (headerWord id weld 0 2), .time time] := by
  rw [packEvent, eventHeader_wmStatusChanged]

end

section
variable (id : Half) (flag : Bool) (status : BitVec 3) (kind : BitVec 2)

theorem headerWord_kind : (headerWord id flag status kind).extractLsb' 0 2 = kind :=
  BitVec.extractLsb'_append_eq_right

theorem headerWord_status : (headerWord id flag status kind).extractLsb' 2 3 = status := by
  rw [headerWord, BitVec.extractLsb'_append_eq_of_le (by decide)]
  exact BitVec.extractLsb'_append_eq_right

theorem headerWord_flag : (headerWord id flag status kind).getLsbD 5 = flag := by
  rw [headerWord, BitVec.getLsbD_append, if_neg (by decide), BitVec.getLsbD_append, if_neg (by decide),
    BitVec.getLsbD_append, if_pos (by decide)]
  simp

theorem headerWord_zeros : (headerWord id flag status kind).extractLsb' 6 10 = 0 := by
  rw [headerWord, BitVec.extractLsb'_append_eq_of_le (by decide), BitVec.extractLsb'_append_eq_of_le (by decide),
    BitVec.extractLsb'_append_eq_of_le (by decide)]
  exact BitVec.extractLsb'_append_eq_right

theorem headerWord_id : (headerWord id flag status kind).extractLsb' 16 16 = id := by
  rw [headerWord, BitVec.extractLsb'_append_eq_of_le (by decide), BitVec.extractLsb'_append_eq_of_le (by decide),
    BitVec.extractLsb'_append_eq_of_le (by decide)]
  exact BitVec.extractLsb'_append_eq_left

/-- Every bit of the header belongs to one of five fields. -/
theorem headerWord_fields :
    (headerWord id flag status kind).extractLsb' 0 2 = kind ∧ (headerWord id flag status kind).extractLsb' 2 3 = status ∧
    (headerWord id flag status kind).getLsbD 5 = flag ∧ (headerWord id flag status kind).extractLsb' 6 10 = 0 ∧
    (headerWord id flag status kind).extractLsb' 16 16 = id :=
  ⟨headerWord_kind .., headerWord_status .., headerWord_flag .., headerWord_zeros .., headerWord_id ..⟩

end

/-! ### The obligations -/

/-- Settles O24: the four bytes first; the sign, exponent and fraction lie inside those bytes. -/
theorem floatFieldsOfTheWordPair : Obligations.FloatFieldsOfTheWordPair := by
  unfold Obligations.FloatFieldsOfTheWordPair
  rintro lo hi _ rfl
  exact ⟨(remap_byte0 lo hi).symm, (remap_byte1 lo hi).symm, (remap_byte2 lo hi).symm, (remap_byte3 lo hi).symm,
    rfl, remap_eq_bswap16_append lo hi, remap_sign lo hi, remap_exponent lo hi, remap_fraction lo hi⟩

/-- Settles O50: the three kinds share one header layout, whose fields are read once for all of them. -/
theorem eventHeaderFields : Obligations.EventHeaderFields := by
  unfold Obligations.EventHeaderFields
  refine ⟨HostRead.statusCodesAsGiven, ?measurement, ?statusChanged, ?wmStatusChanged⟩
  case measurement =>
    intro U I status weld id time
    exact ⟨_, packEvent_measurement U I status weld id time, headerWord_fields ..⟩
  case statusChanged =>
    intro status id time
    exact ⟨_, packEvent_statusChanged status id time, headerWord_fields ..⟩
  case wmStatusChanged =>
    intro weld id time
    exact ⟨_, packEvent_wmStatusChanged weld id time, headerWord_fields ..⟩

end Sys2Proof.Proofs.EncodingFields
end

section
/-!
PROOFS. The register-block decoder (40_decoder.md): what a delivered 29-word block holds word by word, the channels a decode
reads from it (R104, R107, R108), and the obligations of `40_decoder.md` about the DECODE command.
-/

namespace Sys2Proof.Proofs.Decoder

open Sys2Proof Sys2Proof.Machine

/-! ### The channels of a decoded buffer -/

section
variable (w : Config.Block)

/-- A float channel is its word pair remapped, the bytes most significant first (R104). -/
theorem telemetryOf_float (i : Fin 12) :
    (telemetryOf w).floats[i] =
      lo8 w[2 * i.val + 1] ++ hi8 w[2 * i.val + 1] ++ lo8 w[2 * i.val] ++ hi8 w[2 * i.val] := by
  simp only [telemetryOf, Fin.getElem_fin, Vector.getElem_ofFn, remap]

/-- A digital channel is one byte of the word it shares with its neighbour (R107). -/
theorem telemetryOf_digital (c : Fin 8) :
    (telemetryOf w).dig[c] = if c.val % 2 = 0 then lo8 w[24 + c.val / 2] else hi8 w[24 + c.val / 2] := by
  simp only [telemetryOf, Fin.getElem_fin, Vector.getElem_ofFn]

/-- The address is the last word (R108). -/
theorem telemetryOf_addr : (telemetryOf w).addr = w[28] := rfl

end

/-! ### A delivered block and its decode -/

theorem exec_decode (len : Half) (v : List Half) (s : State) : exec (.decode len v) s = execDecode len v s := rfl

section
variable {len : Half} {v : List Half}

/-- A full delivery leaves nothing of the old buffer (R22). -/
theorem getElem_deliverWords_full (hlen : len.toNat = 29) (hv : v.length = 29) (w : Config.Block) (k : Nat) (hk : k < 29) :
    (deliverWords len v w)[k] = v.getD k 0 := by
  have hkv : k < v.length := by omega
  rw [getElem_deliverWords_of_lt len v w k hk (by omega) hkv, List.getD_eq_getElem v 0 hkv]

/-- DECODE with BLK_LEN = 29 succeeds (R102, R156). -/
theorem execDecode_full (hlen : len.toNat = 29) (s : State) :
    execDecode len v s = .next (succeed 0 (writeLatch (telemetryOf (deliverWords len v s.w)) (deliver len v s))) := by
  rcases execDecode_cases len v s with ⟨_, hnext⟩ | ⟨hshort, _⟩ | ⟨hlong, _⟩
  · exact hnext
  · omega
  · omega

end

/-! ### The obligation -/

/-- Settles O11: the command's one successful outcome, whose W is the delivered block, so that each channel read from W is
read from the words delivered. -/
theorem decodeCommandLatchesEveryChannel : Obligations.DecodeCommandLatchesEveryChannel := by
  unfold Obligations.DecodeCommandLatchesEveryChannel
  intro len v s hlen hv
  have hword := getElem_deliverWords_full hlen hv s.w
  refine ⟨_, (exec_decode len v s).trans (execDecode_full hlen s), rfl, fun k => hword k k.isLt, ?floats, ?digital, ?addr,
    rfl, rfl, rfl, rfl, rfl, rfl, rfl⟩
  case floats =>
    intro i
    rw [succeed_latch, writeLatch_latch, telemetryOf_float, hword (2 * i) (by omega), hword (2 * i + 1) (by omega)]
  case digital =>
    intro c
    rw [succeed_latch, writeLatch_latch, telemetryOf_digital, hword (24 + c / 2) (by omega)]
  case addr =>
    rw [succeed_latch, writeLatch_latch, telemetryOf_addr, hword 28 (by decide)]

end Sys2Proof.Proofs.Decoder
end

section
/-!
PROOFS. The status classifier and edge detector (41_classifier.md): the channels each derived value reads (R121, R122, R127)
and the records of one classification written out (R131 to R134), with the obligations about them.
-/

namespace Sys2Proof.Proofs.Classifier

open Sys2Proof Sys2Proof.Machine

/-! ### What each value reads -/

section
variable (n : Nat) (tel : Telemetry)

/-- A voltage is its float channel unchanged (R121). -/
theorem voltage_eq_float (k : Fin 4) : voltage tel k = tel.floats[8 + k.val] := rfl

/-- Current k scales float channel k (R122). -/
theorem currentInput_eq_float (k : Fin 4) : currentInput tel k = tel.floats[k.val] := by
  simp only [currentInput, Config.currentBase, Nat.zero_add]

/-- A current as a function of its float channel, with the free NaN it answers for a NaN (R122, log 8). -/
theorem current_eq_scaleCurrent_float (k : Fin 4) : current n tel k = scaleCurrent (freeNaN n k) tel.floats[k.val] := by
  rw [current, currentInput_eq_float]

variable (ps : MachineStatus) (pw : Bool) (ts : TS)

/-- The status is DeriveStatus of digital channels 5, 6 and 7 and the prior status (R127, R135). -/
theorem classify_status :
    (classify n tel ps pw ts).status = deriveStatus tel.dig[5] tel.dig[6] tel.dig[7] ps := rfl

end

/-! ### The edges as conditions (R132, R133) -/

theorem statusEdge_eq_ite (s prev : MachineStatus) (id : Half) (ts : TS) :
    statusEdge s prev id ts = if s ≠ prev then [EventRecord.statusChanged s id ts] else [] := rfl

theorem weldEdge_eq_ite (w prev : Bool) (id : Half) (ts : TS) :
    weldEdge w prev id ts = if w ≠ prev then [EventRecord.wmStatusChanged w id ts] else [] := rfl

/-! ### The obligations -/

/-- Settles O27: both statuses are DeriveStatus of the same three channels and prior status. -/
theorem statusReadsOnlyStatusChannels : Obligations.StatusReadsOnlyStatusChannels := by
  unfold Obligations.StatusReadsOnlyStatusChannels
  intro n n' tel tel' ps pw pw' ts ts' h5 h6 h7
  rw [classify_status, classify_status, h5, h6, h7]

/-- Settles O32: the records as R135 lists them, each voltage and current traced to its float channel. -/
theorem classifyEmitsMeasurementThenEdges : Obligations.ClassifyEmitsMeasurementThenEdges := by
  unfold Obligations.ClassifyEmitsMeasurementThenEdges
  intro n tel ps pw ts
  refine ⟨Vector.ofFn (voltage tel), Vector.ofFn (current n tel), _, _, rfl, rfl, fun k => ?voltages, fun k => ?currents,
    ?events⟩
  case voltages => rw [Vector.getElem_ofFn, voltage_eq_float]
  case currents => rw [Vector.getElem_ofFn, current_eq_scaleCurrent_float]
  case events => rw [classify_events, statusEdge_eq_ite, weldEdge_eq_ite]

end Sys2Proof.Proofs.Classifier
end

section
/-!
PROOFS. The commands without a block (42_commands.md): the dispatch of the reserved CMD bytes (R150), what NOP, CYCLE_FAIL
and the reserved rows do to the state (R152, R155, R157), and the obligations of `42_commands.md` about them.
-/

namespace Sys2Proof.Proofs.Commands

open Sys2Proof Sys2Proof.Machine

/-! ### The two error outcomes that name no reason -/

/-- The TransportError outcome: the error outcome of a kind that clears TEL_VALID (R195). -/
theorem raiseError_transport (r : ErrReason) (c : Byte) (t : Option TS) (d : Option Detail) (s : State) :
    raiseError .transport r c t d s =
      { s with
        telValid := false
        result := { errKind := .transport, errReason := r, evCount := 0 }
        errq := s.errq ++ [{ kind := .transport, reason := r, cmd := c, time := t, detail := d }] } := by
  have hclears : clearsTelValid .transport = true := rfl
  rw [raiseError_eq, if_pos hclears]

/-- The IllegalCommand outcome: the error outcome of a kind that keeps TEL_VALID (R157, R195). -/
theorem illegal_eq (c : Byte) (s : State) :
    illegal c s =
      { s with
        result := { errKind := .illegalCmd, errReason := .none, evCount := 0 }
        errq := s.errq ++ [{ kind := .illegalCmd, reason := .none, cmd := c, time := none, detail := none }] } := by
  have hkeeps : ¬ clearsTelValid .illegalCmd = true := Bool.false_ne_true
  rw [illegal, raiseError_eq, if_neg hkeeps]

/-! ### The commands' executions -/

section
variable (s : State)

theorem exec_nop : exec .nop s = .next s := rfl

theorem exec_cycleFail (ts : TS) (d : Detail) :
    exec (.cycleFail ts d) s = .next (raiseError .transport .none 0x03 (some ts) (some d) s) := rfl

theorem exec_illegalOp5 : exec .illegalOp5 s = .next (illegal 0x05 s) := rfl

theorem exec_illegalOp6 : exec .illegalOp6 s = .next (illegal 0x06 s) := rfl

theorem exec_illegalOp7 : exec .illegalOp7 s = .next (illegal 0x07 s) := rfl

theorem exec_illegalRsv (c : Byte) : exec (.illegalRsv c) s = .next (illegal c s) := rfl

end

/-- The commands of the four reserved rows (R72, R75). -/
def IsReserved (i : Instr) : Prop :=
  i = .illegalOp5 ∨ i = .illegalOp6 ∨ i = .illegalOp7 ∨ ∃ c, i = .illegalRsv c

/-- A reserved command performs the IllegalCommand outcome for its own CMD byte (R157). -/
theorem exec_of_isReserved {i : Instr} (h : IsReserved i) (s : State) : exec i s = .next (illegal i.cmd s) := by
  obtain rfl | rfl | rfl | ⟨c, rfl⟩ := h
  · exact exec_illegalOp5 s
  · exact exec_illegalOp6 s
  · exact exec_illegalOp7 s
  · exact exec_illegalRsv s c

/-! ### The dispatch of the reserved bytes (R150) -/

theorem cmdRsv_toNat (c : Byte) : (cmdRsv c).toNat = c.toNat / 8 := by
  have hc := c.isLt
  rw [cmdRsv, BitVec.extractLsb'_toNat, Nat.shiftRight_eq_div_pow]
  omega

/-- The bytes with RSV zero are those the three bits of OP can write (R71). -/
theorem cmdRsv_eq_zero_iff (c : Byte) : cmdRsv c = 0 ↔ c.toNat < 8 := by
  rw [← BitVec.toNat_inj, cmdRsv_toNat]
  exact Nat.div_eq_zero_iff_lt (by decide)

/-- The reserved bytes, in the order of the dispatch: RSV nonzero, or one of three values of OP (R75, R150). -/
theorem cmdRsv_ne_zero_or_eq_of_five_le {c : Byte} (hc : 5 ≤ c.toNat) :
    cmdRsv c ≠ 0 ∨ c = 0x05 ∨ c = 0x06 ∨ c = 0x07 := by
  by_cases hrsv : cmdRsv c = 0
  · have hlt := (cmdRsv_eq_zero_iff c).1 hrsv
    right
    bv_omega
  · exact .inl hrsv

section
variable (fs : List PortField)

/-- RSV is checked before OP (R150). -/
theorem decodePort_of_cmdRsv_ne_zero {c : Byte} (h : cmdRsv c ≠ 0) :
    decodePort (.byte c :: fs) = .ok (.illegalRsv c, fs) :=
  if_pos h

theorem decodePort_op5 : decodePort (.byte 0x05 :: fs) = .ok (.illegalOp5, fs) := rfl

theorem decodePort_op6 : decodePort (.byte 0x06 :: fs) = .ok (.illegalOp6, fs) := rfl

theorem decodePort_op7 : decodePort (.byte 0x07 :: fs) = .ok (.illegalOp7, fs) := rfl

/-- A reserved byte decodes to a reserved command with that CMD byte, which takes no operands (R74, R75). -/
theorem decodePort_of_five_le {c : Byte} (hc : 5 ≤ c.toNat) :
    ∃ i, decodePort (.byte c :: fs) = .ok (i, fs) ∧ IsReserved i ∧ i.cmd = c := by
  obtain hrsv | rfl | rfl | rfl := cmdRsv_ne_zero_or_eq_of_five_le hc
  · exact ⟨.illegalRsv c, decodePort_of_cmdRsv_ne_zero fs hrsv, .inr (.inr (.inr ⟨c, rfl⟩)), rfl⟩
  · exact ⟨.illegalOp5, decodePort_op5 fs, .inl rfl, rfl⟩
  · exact ⟨.illegalOp6, decodePort_op6 fs, .inr (.inl rfl), rfl⟩
  · exact ⟨.illegalOp7, decodePort_op7 fs, .inr (.inr (.inl rfl)), rfl⟩

end

/-! ### The obligations -/

/-- Settles O3: the byte decodes to a reserved command that bears it, and every such command has the one outcome. -/
theorem reservedBytesPerformIllegalCommand : Obligations.ReservedBytesPerformIllegalCommand := by
  unfold Obligations.ReservedBytesPerformIllegalCommand
  intro c rest hc
  obtain ⟨i, hdecode, hreserved, hcmd⟩ := decodePort_of_five_le rest hc
  refine ⟨i, hdecode, fun s => ?_⟩
  rw [exec_of_isReserved hreserved s, hcmd, illegal_eq]

/-- Settles O9: NOP's execution answers the state it was given. -/
theorem nopChangesNothing : Obligations.NopChangesNothing := by
  unfold Obligations.NopChangesNothing
  exact exec_nop

/-- Settles O15: the error outcome of the one kind CYCLE_FAIL raises. -/
theorem cycleFailLogsTheTransportError : Obligations.CycleFailLogsTheTransportError := by
  unfold Obligations.CycleFailLogsTheTransportError
  intro ts d s
  rw [exec_cycleFail, raiseError_transport]

/-- Settles O16: the four rows share the IllegalCommand outcome, each with its own CMD byte. -/
theorem reservedCommandsComplete : Obligations.ReservedCommandsComplete := by
  unfold Obligations.ReservedCommandsComplete
  intro i s hreserved
  rw [exec_of_isReserved hreserved s, illegal_eq]

end Sys2Proof.Proofs.Commands
end

section
/-!
PROOFS. The rendered messages (43_event_output.md): the decimal digits that the texts of numbers are made of (R176, R178),
the fields of each kind of message (R171 to R173), and the obligation of `43_event_output.md` about their keys and values.
-/

namespace Sys2Proof.Proofs.EventOutput

open Sys2Proof Sys2Proof.Machine

/-! ### One decimal digit -/

theorem digitChar_mod_ten (n : Nat) : digitChar (n % 10) = digitChar n := by
  simp only [digitChar, Nat.mod_mod]

/-- Every digit character reads back as the digit, and only the digit 0 is written '0'. -/
theorem decDigit_ofNat_of_lt_ten :
    ∀ d < 10, decDigit (Char.ofNat (48 + d)) = some d ∧ (Char.ofNat (48 + d) = '0' → d = 0) := by decide

@[simp] theorem decDigit_digitChar (n : Nat) : decDigit (digitChar n) = some (n % 10) :=
  (decDigit_ofNat_of_lt_ten (n % 10) (Nat.mod_lt n (by decide))).1

theorem digitChar_ne_zero {n : Nat} (h : n % 10 ≠ 0) : digitChar n ≠ '0' :=
  mt (decDigit_ofNat_of_lt_ten (n % 10) (Nat.mod_lt n (by decide))).2 h

/-! ### The digits of a number -/

section
variable (fuel : Nat) {n : Nat} (acc : Text)

theorem digitsAux_of_lt_ten (h : n < 10) : digitsAux (fuel + 1) n acc = digitChar n :: acc := by
  simp only [digitsAux, digitChar_mod_ten, if_pos h]

theorem digitsAux_of_ten_le (h : 10 ≤ n) :
    digitsAux (fuel + 1) n acc = digitsAux fuel (n / 10) (digitChar n :: acc) := by
  simp only [digitsAux, digitChar_mod_ten, if_neg (Nat.not_lt.2 h)]

end

/-- A digit read after the digits of `m`. -/
theorem digitsValue_digitChar_cons (m n : Nat) (cs : Text) :
    digitsValue 10 decDigit m (digitChar n :: cs) = digitsValue 10 decDigit (m * 10 + n % 10) cs := by
  simp only [digitsValue, decDigit_digitChar]

/-- One tenth of a number needs one step of fuel less. -/
theorem div_ten_lt_two_pow {fuel n : Nat} (h : n < 2 ^ (fuel + 1)) : n / 10 < 2 ^ fuel := by
  rw [Nat.pow_succ] at h
  omega

/-- With fuel enough, reading the digits of `n` and then `acc` is reading `acc` after `n`. -/
theorem digitsValue_digitsAux {fuel n : Nat} (h : n < 2 ^ fuel) (acc : Text) :
    digitsValue 10 decDigit 0 (digitsAux fuel n acc) = digitsValue 10 decDigit n acc := by
  induction fuel generalizing n acc with
  | zero =>
    obtain rfl : n = 0 := by omega
    rfl
  | succ fuel ih =>
    by_cases hn : n < 10
    · rw [digitsAux_of_lt_ten fuel acc hn, digitsValue_digitChar_cons, Nat.zero_mul, Nat.zero_add, Nat.mod_eq_of_lt hn]
    · rw [digitsAux_of_ten_le fuel acc (Nat.not_lt.1 hn), ih (div_ten_lt_two_pow h), digitsValue_digitChar_cons,
        Nat.div_add_mod']

/-- A number other than 0 has a first digit other than '0'. -/
theorem digitsAux_head?_ne_zero {fuel n : Nat} (h : n < 2 ^ fuel) (h0 : n ≠ 0) (acc : Text) :
    (digitsAux fuel n acc).head? ≠ some '0' := by
  induction fuel generalizing n acc with
  | zero => omega
  | succ fuel ih =>
    by_cases hn : n < 10
    · have hdigit : digitChar n ≠ '0' := digitChar_ne_zero (by omega)
      simpa only [digitsAux_of_lt_ten fuel acc hn, List.head?_cons, ne_eq, Option.some.injEq] using hdigit
    · rw [digitsAux_of_ten_le fuel acc (Nat.not_lt.1 hn)]
      exact ih (div_ten_lt_two_pow h) (by omega) _

theorem digitsAux_succ_ne_nil (fuel n : Nat) (acc : Text) : digitsAux (fuel + 1) n acc ≠ [] := by
  induction fuel generalizing n acc with
  | zero => by_cases hn : n < 10 <;> simp [digitsAux, hn]
  | succ fuel ih =>
    by_cases hn : n < 10
    · simp only [digitsAux_of_lt_ten (fuel + 1) acc hn, ne_eq, reduceCtorEq, not_false_eq_true]
    · rw [digitsAux_of_ten_le (fuel + 1) acc (Nat.not_lt.1 hn)]
      exact ih _ _

/-! ### The decimal text of a number -/

/-- The text of a digit is that digit alone. -/
theorem natText_of_lt_ten {n : Nat} (h : n < 10) : natText n = [digitChar n] :=
  digitsAux_of_lt_ten _ [] h

theorem someDigits_natText (n : Nat) : someDigits 10 decDigit (natText n) = some n := by
  have hne : ¬ (natText n).isEmpty = true := mt List.isEmpty_iff.1 (digitsAux_succ_ne_nil _ n [])
  rw [someDigits, if_neg hne]
  exact digitsValue_digitsAux Nat.lt_log2_self []

theorem natText_head?_ne_zero {n : Nat} (h : n ≠ 0) : (natText n).head? ≠ some '0' :=
  digitsAux_head?_ne_zero Nat.lt_log2_self h []

/-! ### Messages up to the order of their fields (R180) -/

theorem sameMessage_of_perm {xs ys : List (Text × Text)} (h : xs.Perm ys) :
    sameMessage { fields := xs } { fields := ys } = true :=
  List.isPerm_iff.2 h

/-- The two ends of four fields change places. -/
theorem perm_swap_ends {α : Type} (a b c d : α) : [a, b, c, d].Perm [d, b, c, a] := by
  have last_first : [a, b, c, d].Perm [d, a, b, c] := List.perm_middle (l₁ := [a, b, c])
  have first_last : [a, b, c].Perm [b, c, a] := List.perm_append_comm (l₁ := [a])
  exact last_first.trans (first_last.cons d)

/-- The last, the third and the sixth of seven fields come to the front. -/
theorem perm_last_third_sixth {α : Type} (a b c d e f g : α) :
    [a, b, c, d, e, f, g].Perm [g, c, f, a, b, d, e] := by
  have last : [a, b, c, d, e, f, g].Perm [g, a, b, c, d, e, f] := List.perm_middle (l₁ := [a, b, c, d, e, f])
  have third : [a, b, c, d, e, f].Perm [c, a, b, d, e, f] := List.perm_middle (l₁ := [a, b])
  have sixth : [a, b, d, e, f].Perm [f, a, b, d, e] := List.perm_middle (l₁ := [a, b, d, e])
  exact last.trans ((third.trans (sixth.cons c)).cons g)

/-! ### The messages of the three kinds (R171 to R173) -/

/-- Fields whose keys are a letter and the number of the weld. -/
theorem map_finRange_numbered (letter : Char) (value : Fin 4 → Text) :
    (List.finRange 4).map (fun k => (letter :: natText k.val, value k)) =
      [([letter, '0'], value 0), ([letter, '1'], value 1), ([letter, '2'], value 2), ([letter, '3'], value 3)] := by
  have keys : ∀ k : Fin 4, natText k.val = [digitChar k.val] := fun k => natText_of_lt_ten (by omega)
  simp only [keys]
  rfl

section
variable (U : Config.PerWeld Word) (I : Config.PerWeld Dword) (status : MachineStatus) (weld : Bool) (id : Half) (time : TS)

/-- The fields of a Measurement but its voltages and currents, in the order of R171. -/
def measurementTail : List (Text × Text) :=
  [("Status".toList, statusText status), ("WeldStatus".toList, weldText weld), ("ID".toList, idText id),
    ("Length".toList, ['0']), ("Speed".toList, ['0']), ("Time".toList, timeText time), ("Type".toList, "Measurement".toList)]

theorem renderEvent_measurement :
    renderEvent (.measurement U I status weld id time) =
      { fields :=
          (List.finRange 4).map (fun k => ('U' :: natText k.val, fmt3 (.single U[k]))) ++
          (List.finRange 4).map (fun k => ('I' :: natText k.val, fmt3 (.double I[k]))) ++
          measurementTail status weld id time } := by
  rw [map_finRange_numbered 'U' (fun k => fmt3 (.single U[k])), map_finRange_numbered 'I' (fun k => fmt3 (.double I[k]))]
  rfl

theorem renderEvent_statusChanged :
    renderEvent (.statusChanged status id time) =
      { fields := [("Status".toList, statusText status), ("ID".toList, idText id), ("Time".toList, timeText time),
          ("Type".toList, "StatusChanged".toList)] } := rfl

theorem renderEvent_wmStatusChanged :
    renderEvent (.wmStatusChanged weld id time) =
      { fields := [("WeldStatus".toList, weldText weld), ("ID".toList, idText id), ("Time".toList, timeText time),
          ("Type".toList, "WMStatusChanged".toList)] } := rfl

end

/-! ### The obligation -/

/-- Settles O56: each message lists the fields of its table in an order of its own, and its numbers are texts of digits. -/
theorem messagesHaveTheirKeysAndValues : Obligations.MessagesHaveTheirKeysAndValues := by
  unfold Obligations.MessagesHaveTheirKeysAndValues
  refine ⟨?measurement, ?statusChanged, ?wmStatusChanged, ?statusDigit, rfl, rfl, ?address, ?zero⟩
  case measurement =>
    intro U I status weld id time
    rw [renderEvent_measurement]
    refine sameMessage_of_perm (List.perm_append_comm.trans ?_)
    rw [List.append_assoc]
    exact (perm_last_third_sixth ..).append_right _
  case statusChanged =>
    intro status id time
    rw [renderEvent_statusChanged]
    exact sameMessage_of_perm (perm_swap_ends ..)
  case wmStatusChanged =>
    intro weld id time
    rw [renderEvent_wmStatusChanged]
    exact sameMessage_of_perm (perm_swap_ends ..)
  case statusDigit =>
    intro s
    have hlt : (statusCode s).toNat < 10 := Nat.lt_of_le_of_lt (HostRead.statusCode_toNat_le s) (by decide)
    exact ⟨_, natText_of_lt_ten hlt, by rw [decDigit_digitChar, Nat.mod_eq_of_lt hlt]⟩
  case address =>
    intro a
    have hne : a ≠ 0 → a.toNat ≠ 0 := BitVec.toNat_ne_iff_ne.2
    exact ⟨someDigits_natText a.toNat, fun h => natText_head?_ne_zero (hne h)⟩
  case zero => exact natText_of_lt_ten (by decide)

end Sys2Proof.Proofs.EventOutput
end

section
/-!
PROOFS. The error outcome (60_exceptions.md): every command but NOP ends without an error or in the one error outcome,
raised on the state that differs from the one before by the delivered block alone (R193, R195), and the obligation of
`60_exceptions.md` about what that outcome touches.
-/

namespace Sys2Proof.Proofs.Exceptions

open Sys2Proof Sys2Proof.Machine

/-! ### The state an error is raised on -/

/-- The state after the delivery of the command's block (R22), or the state itself for a command without one. -/
def delivered (i : Instr) (s : State) : State :=
  match i with
  | .cycle len words _ => deliver len words s
  | .decode len words => deliver len words s
  | _ => s

/-- A delivery writes W and BLK_LEN alone (R22). -/
theorem delivered_eq (i : Instr) (s : State) : ∃ len w, delivered i s = { s with blkLen := len, w := w } := by
  cases i with
  | cycle len words _ => exact ⟨len, deliverWords len words s.w, rfl⟩
  | decode len words => exact ⟨len, deliverWords len words s.w, rfl⟩
  | _ => exact ⟨s.blkLen, s.w, rfl⟩

/-! ### The two ways a command ends -/

theorem exec_register (s : State) : exec .register s = .next (resetBlock s) := rfl

theorem exec_cycle (len : Half) (words : List Half) (ts : TS) (s : State) :
    exec (.cycle len words ts) s = execCycle len words ts s := rfl

/-- The command completes, and RESULT names no error (R153, R154, R156). -/
def Completes (i : Instr) (s : State) : Prop :=
  ∃ t, exec i s = .next t ∧ t.result.errKind = .none

/-- The command ends in the error outcome, for its own CMD byte (R154 to R157, R195). -/
def Raises (i : Instr) (s : State) : Prop :=
  ∃ kind reason time detail, exec i s = .next (raiseError kind reason i.cmd time detail (delivered i s))

theorem raises_of_isReserved {i : Instr} (h : Commands.IsReserved i) (s : State) : Raises i s := by
  have hsame : delivered i s = s := by
    obtain rfl | rfl | rfl | ⟨c, rfl⟩ := h <;> rfl
  exact ⟨.illegalCmd, .none, none, none, by rw [hsame, Commands.exec_of_isReserved h s, illegal]⟩

/-- Every command but NOP completes or raises its error (R193); NOP keeps the RESULT of the command before it (R152). -/
theorem completes_or_raises {i : Instr} (hnop : i ≠ .nop) (s : State) : Completes i s ∨ Raises i s := by
  cases i with
  | nop => exact absurd rfl hnop
  | register => exact .inl ⟨_, exec_register s, rfl⟩
  | cycle len words ts =>
    rcases execCycle_cases len words ts s with ⟨_, hrun⟩ | ⟨_, hrun⟩ | ⟨_, hrun⟩
    · exact .inl ⟨_, (exec_cycle len words ts s).trans hrun, by rw [cycleDone_result]⟩
    · exact .inr ⟨_, _, _, _, (exec_cycle len words ts s).trans hrun⟩
    · exact .inr ⟨_, _, _, _, (exec_cycle len words ts s).trans hrun⟩
  | cycleFail ts detail => exact .inr ⟨_, _, _, _, Commands.exec_cycleFail s ts detail⟩
  | decode len words =>
    rcases execDecode_cases len words s with ⟨_, hrun⟩ | ⟨_, hrun⟩ | ⟨_, hrun⟩
    · exact .inl ⟨_, (Decoder.exec_decode len words s).trans hrun, by rw [succeed_result]⟩
    · exact .inr ⟨_, _, _, _, (Decoder.exec_decode len words s).trans hrun⟩
    · exact .inr ⟨_, _, _, _, (Decoder.exec_decode len words s).trans hrun⟩
  | illegalOp5 => exact .inr (raises_of_isReserved (.inl rfl) s)
  | illegalOp6 => exact .inr (raises_of_isReserved (.inr (.inl rfl)) s)
  | illegalOp7 => exact .inr (raises_of_isReserved (.inr (.inr (.inl rfl))) s)
  | illegalRsv c => exact .inr (raises_of_isReserved (.inr (.inr (.inr ⟨c, rfl⟩))) s)

/-- A command other than NOP whose RESULT names an error ended in the error outcome (R195). -/
theorem eq_raiseError_of_errKind_ne_none {i : Instr} {s t : State} (hnop : i ≠ .nop) (hrun : exec i s = .next t)
    (herr : t.result.errKind ≠ .none) :
    ∃ kind reason time detail, t = raiseError kind reason i.cmd time detail (delivered i s) := by
  obtain ⟨t', hrun', hnone⟩ | ⟨kind, reason, time, detail, hrun'⟩ := completes_or_raises hnop s
  · obtain rfl := Host.Outcome.next.inj (hrun.symm.trans hrun')
    exact absurd hnone herr
  · exact ⟨kind, reason, time, detail, Host.Outcome.next.inj (hrun.symm.trans hrun')⟩

/-- Of the three errors, IllegalCommand alone keeps TEL_VALID (R195). -/
theorem raiseError_telValid_of_ne_none {kind : ErrKind} (hkind : kind ≠ .none) (reason : ErrReason) (cmd : Byte)
    (time : Option TS) (detail : Option Detail) (s : State) :
    (raiseError kind reason cmd time detail s).telValid = if kind = .illegalCmd then s.telValid else false := by
  cases kind with
  | none => exact absurd rfl hkind
  | transport => rfl
  | decode => rfl
  | illegalCmd => rfl

/-! ### The obligation -/

/-- Settles O35: the state after is the error outcome on the state before with W and BLK_LEN rewritten, so each clause is
what `raiseError` leaves in that field. -/
theorem errorOutcomeIsPrecise : Obligations.ErrorOutcomeIsPrecise := by
  unfold Obligations.ErrorOutcomeIsPrecise
  intro i s t hnop hrun herr
  obtain ⟨kind, reason, time, detail, rfl⟩ := eq_raiseError_of_errKind_ne_none hnop hrun herr
  obtain ⟨len, w, hdelivered⟩ := delivered_eq i s
  rw [hdelivered, raiseError_result] at herr ⊢
  refine ⟨rfl, raiseError_session .., raiseError_latch .., raiseError_evq .., raiseError_port ..,
    raiseError_telValid_of_ne_none herr .., ⟨_, raiseError_errq .., rfl, rfl, rfl⟩⟩

end Sys2Proof.Proofs.Exceptions
end

section
/-!
PROOFS. The command port (30_encoding.md R70 to R75, R91): the decoder answers a command and a rest exactly where the fields
are that command's encoding and the rest, from which the obligations about the port, the table and the step follow.
-/

namespace Sys2Proof.Proofs.Port

open Sys2Proof Sys2Proof.Machine

/-! ### What the decoder answers for each CMD byte -/

theorem bind_eq_ok {ε α β : Type} {x : Except ε α} {f : α → Except ε β} {b : β} :
    (x >>= f) = .ok b ↔ ∃ a, x = .ok a ∧ f a = .ok b := by
  cases x <;> simp [bind, Except.bind]

section
variable {fs rest : List PortField} {i : Instr}

/-- CYCLE reads LEN, the words and TS (R73). -/
theorem decodePort_op2_eq_ok : decodePort (.byte 0x02 :: fs) = .ok (i, rest) ↔
    ∃ len words ts, words.length = len.toNat ∧ i = .cycle len words ts ∧
      fs = .half len :: (words.map .half ++ .time ts :: rest) := by
  have hread : decodePort (.byte 0x02 :: fs) =
      (takeBlock fs >>= fun p => takeTime p.2 >>= fun q => .ok (.cycle p.1.1 p.1.2 q.1, q.2)) := rfl
  rw [hread, bind_eq_ok]
  constructor
  · rintro ⟨⟨⟨len, words⟩, fs'⟩, hblock, hrest⟩
    obtain ⟨⟨ts, fs''⟩, htime, hanswer⟩ := bind_eq_ok.1 hrest
    obtain ⟨rfl, rfl⟩ := Prod.mk.inj (Except.ok.inj hanswer)
    obtain ⟨hlen, rfl⟩ := (takeBlock_eq_ok ..).1 hblock
    obtain rfl := (takeTime_eq_ok fs' _ ts).1 htime
    exact ⟨len, words, ts, hlen, rfl, rfl⟩
  · rintro ⟨len, words, ts, hlen, rfl, rfl⟩
    exact ⟨((len, words), .time ts :: rest), (takeBlock_eq_ok ..).2 ⟨hlen, rfl⟩, rfl⟩

/-- CYCLE_FAIL reads TS and DETAIL (R73). -/
theorem decodePort_op3_eq_ok : decodePort (.byte 0x03 :: fs) = .ok (i, rest) ↔
    ∃ ts detail, i = .cycleFail ts detail ∧ fs = .time ts :: .detail detail :: rest := by
  have hread : decodePort (.byte 0x03 :: fs) =
      (takeTime fs >>= fun p => takeDetail p.2 >>= fun q => .ok (.cycleFail p.1 q.1, q.2)) := rfl
  rw [hread, bind_eq_ok]
  constructor
  · rintro ⟨⟨ts, fs'⟩, htime, hrest⟩
    obtain ⟨⟨detail, fs''⟩, hdetail, hanswer⟩ := bind_eq_ok.1 hrest
    obtain ⟨rfl, rfl⟩ := Prod.mk.inj (Except.ok.inj hanswer)
    obtain rfl := (takeTime_eq_ok ..).1 htime
    obtain rfl := (takeDetail_eq_ok fs' _ detail).1 hdetail
    exact ⟨ts, detail, rfl, rfl⟩
  · rintro ⟨ts, detail, rfl, rfl⟩
    exact ⟨(ts, .detail detail :: rest), rfl, rfl⟩

/-- DECODE reads LEN and the words (R73). -/
theorem decodePort_op4_eq_ok : decodePort (.byte 0x04 :: fs) = .ok (i, rest) ↔
    ∃ len words, words.length = len.toNat ∧ i = .decode len words ∧ fs = .half len :: (words.map .half ++ rest) := by
  have hread : decodePort (.byte 0x04 :: fs) = (takeBlock fs >>= fun p => .ok (.decode p.1.1 p.1.2, p.2)) := rfl
  rw [hread, bind_eq_ok]
  constructor
  · rintro ⟨⟨⟨len, words⟩, fs'⟩, hblock, hanswer⟩
    obtain ⟨rfl, rfl⟩ := Prod.mk.inj (Except.ok.inj hanswer)
    obtain ⟨hlen, rfl⟩ := (takeBlock_eq_ok ..).1 hblock
    exact ⟨len, words, hlen, rfl, rfl⟩
  · rintro ⟨len, words, hlen, rfl, rfl⟩
    exact ⟨((len, words), rest), (takeBlock_eq_ok ..).2 ⟨hlen, rfl⟩, rfl⟩

end

/-! ### The decoder is the inverse of the encoder -/

/-- A CMD byte has a nonzero RSV or is one of the eight values of OP (R71, R72). -/
theorem cmdRsv_ne_zero_or_eq (c : Byte) :
    cmdRsv c ≠ 0 ∨ c = 0x00 ∨ c = 0x01 ∨ c = 0x02 ∨ c = 0x03 ∨ c = 0x04 ∨ c = 0x05 ∨ c = 0x06 ∨ c = 0x07 := by
  by_cases hrsv : cmdRsv c = 0
  · have hlt := (Commands.cmdRsv_eq_zero_iff c).1 hrsv
    right
    bv_omega
  · exact .inl hrsv

/-- An answer of the decoder is a well-formed command whose encoding stood in front. -/
theorem wellFormed_and_eq_of_decodePort {fs rest : List PortField} {i : Instr} (h : decodePort fs = .ok (i, rest)) :
    i.wellFormed = true ∧ fs = encode i ++ rest := by
  match fs with
  | [] => cases h
  | .half _ :: _ => cases h
  | .time _ :: _ => cases h
  | .detail _ :: _ => cases h
  | .byte c :: fs =>
    have of_no_operands {j : Instr} (hj : j.wellFormed = true) (hcmd : encode j = [.byte c])
        (hread : decodePort (.byte c :: fs) = .ok (j, fs)) : i.wellFormed = true ∧ .byte c :: fs = encode i ++ rest := by
      obtain ⟨rfl, rfl⟩ := Prod.mk.inj (Except.ok.inj (hread.symm.trans h))
      exact ⟨hj, by rw [hcmd]; rfl⟩
    obtain hrsv | rfl | rfl | rfl | rfl | rfl | rfl | rfl | rfl := cmdRsv_ne_zero_or_eq c
    · exact of_no_operands (j := .illegalRsv c) (bne_iff_ne.2 hrsv) rfl (Commands.decodePort_of_cmdRsv_ne_zero fs hrsv)
    · exact of_no_operands (j := .nop) rfl rfl rfl
    · exact of_no_operands (j := .register) rfl rfl rfl
    · obtain ⟨len, words, ts, hlen, rfl, rfl⟩ := decodePort_op2_eq_ok.1 h
      exact ⟨beq_iff_eq.2 hlen.symm, by simp [encode, Instr.cmd, Instr.operands]⟩
    · obtain ⟨ts, detail, rfl, rfl⟩ := decodePort_op3_eq_ok.1 h
      exact ⟨rfl, rfl⟩
    · obtain ⟨len, words, hlen, rfl, rfl⟩ := decodePort_op4_eq_ok.1 h
      exact ⟨beq_iff_eq.2 hlen.symm, rfl⟩
    · exact of_no_operands (j := .illegalOp5) rfl rfl (Commands.decodePort_op5 fs)
    · exact of_no_operands (j := .illegalOp6) rfl rfl (Commands.decodePort_op6 fs)
    · exact of_no_operands (j := .illegalOp7) rfl rfl (Commands.decodePort_op7 fs)

/-- A well-formed command's fields decode to it, and what follows them stays. -/
theorem decodePort_encode_append {i : Instr} (hwf : i.wellFormed = true) (rest : List PortField) :
    decodePort (encode i ++ rest) = .ok (i, rest) := by
  cases i with
  | nop => rfl
  | register => rfl
  | cycle len words ts =>
    exact decodePort_op2_eq_ok.2 ⟨len, words, ts, (beq_iff_eq.1 hwf).symm, rfl, by simp [Instr.operands]⟩
  | cycleFail ts detail => exact decodePort_op3_eq_ok.2 ⟨ts, detail, rfl, rfl⟩
  | decode len words => exact decodePort_op4_eq_ok.2 ⟨len, words, (beq_iff_eq.1 hwf).symm, rfl, rfl⟩
  | illegalOp5 => exact Commands.decodePort_op5 rest
  | illegalOp6 => exact Commands.decodePort_op6 rest
  | illegalOp7 => exact Commands.decodePort_op7 rest
  | illegalRsv c => exact Commands.decodePort_of_cmdRsv_ne_zero rest (bne_iff_ne.1 hwf)

/-! ### The rows of the table (R91) -/

/-- The encoding's shape, for every command. -/
theorem encodingShape (i : Instr) : Laws.EncodingShape.Statement i := by
  cases i with
  | nop => exact Laws.EncodingShape.nop
  | register => exact Laws.EncodingShape.register
  | cycle len words ts => exact Laws.EncodingShape.cycle len words ts
  | cycleFail ts detail => exact Laws.EncodingShape.cycleFail ts detail
  | decode len words => exact Laws.EncodingShape.decode len words
  | illegalOp5 => exact Laws.EncodingShape.illegalOp5
  | illegalOp6 => exact Laws.EncodingShape.illegalOp6
  | illegalOp7 => exact Laws.EncodingShape.illegalOp7
  | illegalRsv c => exact Laws.EncodingShape.illegalRsv c

theorem row_lt (i : Instr) : i.row < opcodeRows.length := by
  cases i <;> simp [Instr.row, opcodeRows]

/-- A well-formed command's byte matches its own row of the table alone. -/
theorem rowMatches_cmd_iff {i : Instr} (hwf : i.wellFormed = true) (k : Nat) (hk : k < opcodeRows.length) :
    rowMatches opcodeRows[k] i.cmd = true ↔ k = i.row :=
  (encodingShape i hwf).2 k hk

/-- Every byte is the CMD of some command the port can carry (R72, R75). -/
theorem exists_wellFormed_cmd_eq (c : Byte) : ∃ i : Instr, i.wellFormed = true ∧ i.cmd = c := by
  obtain hrsv | rfl | rfl | rfl | rfl | rfl | rfl | rfl | rfl := cmdRsv_ne_zero_or_eq c
  · exact ⟨.illegalRsv c, bne_iff_ne.2 hrsv, rfl⟩
  · exact ⟨.nop, rfl, rfl⟩
  · exact ⟨.register, rfl, rfl⟩
  · exact ⟨.cycle 0 [] ⟨[]⟩, rfl, rfl⟩
  · exact ⟨.cycleFail ⟨[]⟩ ⟨[]⟩, rfl, rfl⟩
  · exact ⟨.decode 0 [], rfl, rfl⟩
  · exact ⟨.illegalOp5, rfl, rfl⟩
  · exact ⟨.illegalOp6, rfl, rfl⟩
  · exact ⟨.illegalOp7, rfl, rfl⟩

/-! ### The step's dispatch (R17, R56) -/

theorem step_of_decodePort {s : State} {i : Instr} {rest : List PortField} (h : decodePort s.port = .ok (i, rest)) :
    step s = exec i { s with port := rest } := by
  simp only [step, h]

theorem step_of_decodePort_noCommand {s : State} (h : decodePort s.port = .error .noCommand) : step s = .next s := by
  simp only [step, h]

theorem step_of_decodePort_error {s : State} {e : PortError} (hne : e ≠ .noCommand) (h : decodePort s.port = .error e) :
    step s = .refused (.malformedCommand e) := by
  obtain ⟨i, rest, hdecode, _⟩ | ⟨hdecode, _⟩ | ⟨e', _, hdecode, hstep⟩ := step_cases s
  · cases h.symm.trans hdecode
  · exact absurd (Except.error.inj (h.symm.trans hdecode)) hne
  · rw [hstep, Except.error.inj (h.symm.trans hdecode)]

theorem step_of_port_nil {s : State} (h : s.port = []) : step s = .next s :=
  step_of_decodePort_noCommand (by rw [h]; rfl)

/-- A step that answers a next state took one well-formed command from the port, or found it empty. -/
theorem eq_or_exec_of_step {s t : State} (h : step s = .next t) :
    t = s ∨ ∃ i rest, i.wellFormed = true ∧ exec i { s with port := rest } = .next t := by
  obtain ⟨i, rest, hdecode, hstep⟩ | ⟨_, hstep⟩ | ⟨e, _, _, hstep⟩ := step_cases s
  · exact .inr ⟨i, rest, (wellFormed_and_eq_of_decodePort hdecode).1, hstep.symm.trans h⟩
  · exact .inl (Host.Outcome.next.inj (h.symm.trans hstep))
  · cases hstep.symm.trans h

/-! ### The obligations -/

/-- Settles O1: the encoder's fields are what the reader of each operand takes. -/
theorem decodeReadsBackEveryEncoding : Obligations.DecodeReadsBackEveryEncoding := by
  unfold Obligations.DecodeReadsBackEveryEncoding
  exact fun i rest hwf => decodePort_encode_append hwf rest

/-- Settles O2: the converse, by the CMD byte in front. -/
theorem decodeTakesExactlyOneEncoding : Obligations.DecodeTakesExactlyOneEncoding := by
  unfold Obligations.DecodeTakesExactlyOneEncoding
  exact fun fs rest i h => wellFormed_and_eq_of_decodePort h

/-- Settles O4: each byte is the CMD of a command, and of the rows that command's alone matches it. -/
theorem tableRowsPartitionCommandBytes : Obligations.TableRowsPartitionCommandBytes := by
  unfold Obligations.TableRowsPartitionCommandBytes
  constructor
  · intro c
    obtain ⟨i, hwf, rfl⟩ := exists_wellFormed_cmd_eq c
    exact ⟨⟨i.row, row_lt i⟩, (rowMatches_cmd_iff hwf _ (row_lt i)).2 rfl,
      fun k hk => Fin.ext ((rowMatches_cmd_iff hwf k k.isLt).1 hk)⟩
  · intro c fs rest i h
    obtain ⟨hwf, hfs⟩ := wellFormed_and_eq_of_decodePort h
    obtain rfl : c = i.cmd := PortField.byte.inj (List.cons.inj hfs).1
    rw [List.getElem?_eq_getElem (row_lt i), Option.map_some, (rowMatches_cmd_iff hwf _ (row_lt i)).2 rfl]

/-- Settles O5: each written transaction is the encoding of its command, followed by what the last of them leaves. -/
theorem writtenCommandsDecode : Obligations.WrittenCommandsDecode := by
  unfold Obligations.WrittenCommandsDecode
  exact ⟨decodePort_encode_append (i := .nop) rfl [], decodePort_encode_append (i := .register) rfl [],
    decodePort_encode_append (i := .cycle 2 [0x9A99, 0x193F] ⟨['T']⟩) rfl [],
    decodePort_encode_append (i := .cycleFail ⟨['T']⟩ ⟨['d']⟩) rfl [],
    decodePort_encode_append (i := .decode 1 [0x1234]) rfl [], decodePort_encode_append (i := .illegalOp5) rfl [],
    decodePort_encode_append (i := .illegalOp6) rfl [], decodePort_encode_append (i := .illegalOp7) rfl [],
    decodePort_encode_append (i := .illegalRsv 0x0A) rfl [.half 0]⟩

/-- Settles O6: the dispatch of a decoded command. -/
theorem stepRunsTheDecodedCommand : Obligations.StepRunsTheDecodedCommand := by
  unfold Obligations.StepRunsTheDecodedCommand
  exact fun s i rest h => step_of_decodePort h

/-- Settles O7: the idle step. -/
theorem emptyPortStepHoldsTheState : Obligations.EmptyPortStepHoldsTheState := by
  unfold Obligations.EmptyPortStepHoldsTheState
  exact fun s h => step_of_port_nil h

end Sys2Proof.Proofs.Port
end

section
/-!
PROOFS. What one command does to the state (42_commands.md R152 to R157), said once as a relation with five cases: every
statement about an execution is a case analysis of it.
-/

namespace Sys2Proof.Proofs.Effects

open Sys2Proof Sys2Proof.Machine

/-! ### The error of each command (R193) -/

/-- Why a block of this length is rejected, if it is (R102). -/
def lengthError (len : Half) : Option ErrReason :=
  if len.toNat = 29 then none else if len.toNat < 29 then some .shortRead else some .lengthMismatch

/-- The error record of each command, for those that end in an error (R193). -/
def errorOf : Instr → Option ErrorRecord
  | .nop => none
  | .register => none
  | .cycle len _ ts => (lengthError len).map fun r => ⟨.decode, r, 0x02, some ts, none⟩
  | .cycleFail ts detail => some ⟨.transport, .none, 0x03, some ts, some detail⟩
  | .decode len _ => (lengthError len).map fun r => ⟨.decode, r, 0x04, none, none⟩
  | .illegalOp5 => some ⟨.illegalCmd, .none, 0x05, none, none⟩
  | .illegalOp6 => some ⟨.illegalCmd, .none, 0x06, none, none⟩
  | .illegalOp7 => some ⟨.illegalCmd, .none, 0x07, none, none⟩
  | .illegalRsv cmd => some ⟨.illegalCmd, .none, cmd, none, none⟩

theorem lengthError_of_eq {len : Half} (h : len.toNat = 29) : lengthError len = none := if_pos h

theorem lengthError_of_lt {len : Half} (h : len.toNat < 29) : lengthError len = some .shortRead := by
  rw [lengthError, if_neg (by omega), if_pos h]

theorem lengthError_of_gt {len : Half} (h : 29 < len.toNat) : lengthError len = some .lengthMismatch := by
  rw [lengthError, if_neg (by omega), if_neg (by omega)]

/-- The reason of a wrong length as one condition (R102). -/
theorem lengthError_of_ne {len : Half} (h : len.toNat ≠ 29) :
    lengthError len = some (if len.toNat < 29 then .shortRead else .lengthMismatch) := by
  rw [lengthError, if_neg h, apply_ite some]

theorem ne_none_of_lengthError {len : Half} {r : ErrReason} (h : lengthError len = some r) : r ≠ .none := by
  rintro rfl
  rcases Nat.lt_trichotomy len.toNat 29 with hlt | heq | hgt
  · cases (lengthError_of_lt hlt).symm.trans h
  · cases (lengthError_of_eq heq).symm.trans h
  · cases (lengthError_of_gt hgt).symm.trans h

/-! ### The five cases -/

/-- The error outcome that writes a given record (R195). -/
def raise (r : ErrorRecord) (s : State) : State := raiseError r.kind r.reason r.cmd r.time r.detail s

/-- The state a successful DECODE leaves (R156). -/
def decodeDone (len : Half) (words : List Half) (s : State) : State :=
  succeed 0 (writeLatch (telemetryOf (deliverWords len words s.w)) (deliver len words s))

/-- `Effect i s t`: the command `i` takes the state `s` to `t`. -/
inductive Effect : Instr → State → State → Prop
  | nop (s : State) : Effect .nop s s
  | register (s : State) : Effect .register s (resetBlock s)
  | cycle (len : Half) (words : List Half) (ts : TS) (s : State) (hlen : len.toNat = 29) :
      Effect (.cycle len words ts) s (cycleDone len words ts (telemetryOf (deliverWords len words s.w)) s)
  | decode (len : Half) (words : List Half) (s : State) (hlen : len.toNat = 29) :
      Effect (.decode len words) s (decodeDone len words s)
  | error (i : Instr) (r : ErrorRecord) (s : State) (herr : errorOf i = some r) :
      Effect i s (raise r (Exceptions.delivered i s))

/-- The record a run raises, where the run is known. -/
theorem exists_effect_of_errorOf {i : Instr} {s : State} (r : ErrorRecord) (herr : errorOf i = some r)
    (hrun : exec i s = .next (raise r (Exceptions.delivered i s))) : ∃ t, exec i s = .next t ∧ Effect i s t :=
  ⟨_, hrun, .error i r s herr⟩

/-- Every command in every state ends in a next state, and in no other than its effect. -/
theorem exists_effect (i : Instr) (s : State) : ∃ t, exec i s = .next t ∧ Effect i s t := by
  cases i with
  | nop => exact ⟨s, Commands.exec_nop s, .nop s⟩
  | register => exact ⟨_, Exceptions.exec_register s, .register s⟩
  | cycle len words ts =>
    have hexec := Exceptions.exec_cycle len words ts s
    obtain ⟨hlen, hrun⟩ | ⟨hlen, hrun⟩ | ⟨hlen, hrun⟩ := execCycle_cases len words ts s
    · exact ⟨_, hexec.trans hrun, .cycle len words ts s hlen⟩
    · exact exists_effect_of_errorOf ⟨.decode, .shortRead, 0x02, some ts, none⟩
        (by simp [errorOf, lengthError_of_lt hlen]) (hexec.trans hrun)
    · exact exists_effect_of_errorOf ⟨.decode, .lengthMismatch, 0x02, some ts, none⟩
        (by simp [errorOf, lengthError_of_gt hlen]) (hexec.trans hrun)
  | cycleFail ts detail => exact exists_effect_of_errorOf _ rfl (Commands.exec_cycleFail s ts detail)
  | decode len words =>
    have hexec := Decoder.exec_decode len words s
    obtain ⟨hlen, hrun⟩ | ⟨hlen, hrun⟩ | ⟨hlen, hrun⟩ := execDecode_cases len words s
    · exact ⟨_, hexec.trans hrun, .decode len words s hlen⟩
    · exact exists_effect_of_errorOf ⟨.decode, .shortRead, 0x04, none, none⟩
        (by simp [errorOf, lengthError_of_lt hlen]) (hexec.trans hrun)
    · exact exists_effect_of_errorOf ⟨.decode, .lengthMismatch, 0x04, none, none⟩
        (by simp [errorOf, lengthError_of_gt hlen]) (hexec.trans hrun)
  | illegalOp5 => exact exists_effect_of_errorOf _ rfl (Commands.exec_illegalOp5 s)
  | illegalOp6 => exact exists_effect_of_errorOf _ rfl (Commands.exec_illegalOp6 s)
  | illegalOp7 => exact exists_effect_of_errorOf _ rfl (Commands.exec_illegalOp7 s)
  | illegalRsv c => exact exists_effect_of_errorOf _ rfl (Commands.exec_illegalRsv s c)

/-- An execution's next state is the command's effect. -/
theorem effect_of_exec {i : Instr} {s t : State} (h : exec i s = .next t) : Effect i s t := by
  obtain ⟨t', hrun, heffect⟩ := exists_effect i s
  rwa [Host.Outcome.next.inj (h.symm.trans hrun)]

/-- CYCLE of a whole block succeeds (R154). -/
theorem exec_cycle_full {len : Half} (hlen : len.toNat = 29) (words : List Half) (ts : TS) (s : State) :
    exec (.cycle len words ts) s = .next (cycleDone len words ts (telemetryOf (deliverWords len words s.w)) s) := by
  rw [Exceptions.exec_cycle]
  obtain ⟨_, hrun⟩ | ⟨hshort, _⟩ | ⟨hlong, _⟩ := execCycle_cases len words ts s
  · exact hrun
  · omega
  · omega

theorem errorOf_cycle_full {len : Half} (hlen : len.toNat = 29) (words : List Half) (ts : TS) :
    errorOf (.cycle len words ts) = none := by
  rw [errorOf, lengthError_of_eq hlen, Option.map_none]

theorem errorOf_decode_full {len : Half} (hlen : len.toNat = 29) (words : List Half) :
    errorOf (.decode len words) = none := by
  rw [errorOf, lengthError_of_eq hlen, Option.map_none]

theorem errorOf_cycle_of_ne {len : Half} (hlen : len.toNat ≠ 29) (words : List Half) (ts : TS) :
    errorOf (.cycle len words ts) =
      some ⟨.decode, if len.toNat < 29 then .shortRead else .lengthMismatch, 0x02, some ts, none⟩ := by
  rw [errorOf, lengthError_of_ne hlen, Option.map_some]

theorem errorOf_decode_of_ne {len : Half} (hlen : len.toNat ≠ 29) (words : List Half) :
    errorOf (.decode len words) =
      some ⟨.decode, if len.toNat < 29 then .shortRead else .lengthMismatch, 0x04, none, none⟩ := by
  rw [errorOf, lengthError_of_ne hlen, Option.map_some]

/-- A command with an error performs its error outcome on what it delivered (R193, R195). -/
theorem exec_of_errorOf {i : Instr} {r : ErrorRecord} (h : errorOf i = some r) (s : State) :
    exec i s = .next (raise r (Exceptions.delivered i s)) := by
  obtain ⟨t, hrun, heffect⟩ := exists_effect i s
  rw [hrun]
  cases heffect with
  | nop => cases h
  | register => cases h
  | cycle len words ts _ hlen => cases (errorOf_cycle_full hlen words ts).symm.trans h
  | decode len words _ hlen => cases (errorOf_decode_full hlen words).symm.trans h
  | error _ r' _ h' => rw [Option.some.inj (h.symm.trans h')]

/-- A command's effect is its execution's next state. -/
theorem exec_of_effect {i : Instr} {s t : State} (h : Effect i s t) : exec i s = .next t := by
  cases h with
  | nop => exact Commands.exec_nop s
  | register => exact Exceptions.exec_register s
  | cycle len words ts _ hlen => exact exec_cycle_full hlen words ts s
  | decode len words _ hlen => exact (Decoder.exec_decode len words s).trans (Decoder.execDecode_full hlen s)
  | error _ r _ herr => exact exec_of_errorOf herr s

/-! ### The fields of the error outcome and of DECODE's success -/

section
variable (r : ErrorRecord) (s : State)

@[simp] theorem raise_init : (raise r s).init = s.init := rfl
@[simp] theorem raise_session : (raise r s).session = s.session := rfl
@[simp] theorem raise_latch : (raise r s).latch = s.latch := rfl
@[simp] theorem raise_evq : (raise r s).evq = s.evq := rfl
@[simp] theorem raise_errq : (raise r s).errq = s.errq ++ [r] := rfl
@[simp] theorem raise_port : (raise r s).port = s.port := rfl
@[simp] theorem raise_freeCtr : (raise r s).freeCtr = s.freeCtr := rfl
@[simp] theorem raise_w : (raise r s).w = s.w := rfl
@[simp] theorem raise_blkLen : (raise r s).blkLen = s.blkLen := rfl
@[simp] theorem raise_result : (raise r s).result = { errKind := r.kind, errReason := r.reason, evCount := 0 } := rfl
@[simp] theorem raise_telValid : (raise r s).telValid = if clearsTelValid r.kind then false else s.telValid := rfl

end

section
variable (len : Half) (words : List Half) (s : State)

@[simp] theorem decodeDone_init : (decodeDone len words s).init = s.init := rfl
@[simp] theorem decodeDone_session : (decodeDone len words s).session = s.session := rfl
@[simp] theorem decodeDone_latch : (decodeDone len words s).latch = telemetryOf (deliverWords len words s.w) := rfl
@[simp] theorem decodeDone_evq : (decodeDone len words s).evq = s.evq := rfl
@[simp] theorem decodeDone_errq : (decodeDone len words s).errq = s.errq := rfl
@[simp] theorem decodeDone_port : (decodeDone len words s).port = s.port := rfl
@[simp] theorem decodeDone_freeCtr : (decodeDone len words s).freeCtr = s.freeCtr := rfl
@[simp] theorem decodeDone_w : (decodeDone len words s).w = deliverWords len words s.w := rfl
@[simp] theorem decodeDone_blkLen : (decodeDone len words s).blkLen = len := rfl
@[simp] theorem decodeDone_result : (decodeDone len words s).result = Result.zero := rfl
@[simp] theorem decodeDone_telValid : (decodeDone len words s).telValid = true := rfl

end

/-! ### What a delivery leaves (R22) -/

section
variable (i : Instr) (s : State)

@[simp] theorem delivered_init : (Exceptions.delivered i s).init = s.init := by cases i <;> rfl
@[simp] theorem delivered_session : (Exceptions.delivered i s).session = s.session := by cases i <;> rfl
@[simp] theorem delivered_latch : (Exceptions.delivered i s).latch = s.latch := by cases i <;> rfl
@[simp] theorem delivered_evq : (Exceptions.delivered i s).evq = s.evq := by cases i <;> rfl
@[simp] theorem delivered_errq : (Exceptions.delivered i s).errq = s.errq := by cases i <;> rfl
@[simp] theorem delivered_port : (Exceptions.delivered i s).port = s.port := by cases i <;> rfl
@[simp] theorem delivered_freeCtr : (Exceptions.delivered i s).freeCtr = s.freeCtr := by cases i <;> rfl
@[simp] theorem delivered_telValid : (Exceptions.delivered i s).telValid = s.telValid := by cases i <;> rfl

end

/-! ### What no command writes -/

section
variable {i : Instr} {s t : State}

/-- No command writes the parameters (R10). -/
theorem Effect.init_eq (h : Effect i s t) : t.init = s.init := by
  cases h <;> simp

/-- No command writes the port: the step has taken its fields before (R56, R150). -/
theorem Effect.port_eq (h : Effect i s t) : t.port = s.port := by
  cases h <;> simp

end

end Sys2Proof.Proofs.Effects
end

section
/-!
PROOFS. What the commands write and what they leave (10_state.md, 20_memory.md, 42_commands.md, 60_exceptions.md), and the
obligations about single executions and steps: each is a case analysis of the command's effect.
-/

namespace Sys2Proof.Proofs.Frames

open Sys2Proof Sys2Proof.Machine Sys2Proof.Proofs.Effects

/-! ### The error of a command, seen after it (R193) -/

section
variable {i : Instr} {s t : State}

/-- A command with an error logs one record and names its kind in RESULT (R195). -/
theorem logged_of_errorOf {r : ErrorRecord} (herr : errorOf i = some r) (h : exec i s = .next t) :
    t.errq.length = s.errq.length + 1 ∧ t.result.errKind = r.kind := by
  obtain rfl := Host.Outcome.next.inj (h.symm.trans (exec_of_errorOf herr s))
  simp

theorem errReason_of_errorOf {r : ErrorRecord} (herr : errorOf i = some r) (h : exec i s = .next t) :
    t.result.errReason = r.reason := by
  obtain rfl := Host.Outcome.next.inj (h.symm.trans (exec_of_errorOf herr s))
  rfl

/-- A command without an error logs nothing. -/
theorem errq_eq_of_errorOf_none (herr : errorOf i = none) (h : exec i s = .next t) : t.errq = s.errq := by
  cases effect_of_exec h with
  | error _ r _ herr' => cases herr.symm.trans herr'
  | _ => simp

/-- Nor does RESULT name an error after it, unless it is NOP, which keeps RESULT (R152). -/
theorem errKind_of_errorOf_none (hnop : i ≠ .nop) (herr : errorOf i = none) (h : exec i s = .next t) :
    t.result.errKind = .none := by
  cases effect_of_exec h with
  | nop => exact absurd rfl hnop
  | error _ r _ herr' => cases herr.symm.trans herr'
  | _ => simp [Result.zero]

end

/-! ### The streams (R27, R30) -/

/-- EV_COUNT after a successful CYCLE is the number of its records, which its two bits can hold (R27, R134). -/
theorem cycleDone_evCount (len : Half) (words : List Half) (ts : TS) (tel : Telemetry) (s : State) :
    (cycleDone len words ts tel s).result.evCount.toNat =
      (classify s.freeCtr tel s.session.prevStatus s.session.prevWeld ts).events.length := by
  obtain ⟨_, hle⟩ := classify_events_length s.freeCtr tel s.session.prevStatus s.session.prevWeld ts
  rw [cycleDone_result, BitVec.toNat_ofNat, Nat.mod_eq_of_lt (by omega)]

/-- Both streams only grow, one of them at most (R30, R63). -/
theorem streams_of_effect {i : Instr} {s t : State} (h : Effect i s t) :
    ∃ evs errs, t.evq = s.evq ++ evs ∧ t.errq = s.errq ++ errs ∧ evs.length ≤ 3 ∧ errs.length ≤ 1 ∧
      (evs = [] ∨ errs = []) := by
  cases h with
  | cycle len words ts _ hlen =>
    exact ⟨_, [], cycleDone_evq .., by simp, (classify_events_length ..).2, by simp, .inr rfl⟩
  | error _ r _ herr => exact ⟨[], [r], by simp, by simp, by simp, by simp, .inl rfl⟩
  | _ => exact ⟨[], [], by simp, by simp, by simp, by simp, .inl rfl⟩

/-! ### The block buffer (R20, R22) -/

/-- Only the two block commands deliver anything. -/
theorem delivered_eq_self_or (i : Instr) (s : State) :
    (∃ len words ts, i = .cycle len words ts) ∨ (∃ len words, i = .decode len words) ∨ Exceptions.delivered i s = s := by
  cases i with
  | cycle len words ts => exact .inl ⟨len, words, ts, rfl⟩
  | decode len words => exact .inr (.inl ⟨len, words, rfl⟩)
  | _ => exact .inr (.inr rfl)

/-- A word of a block that holds as many words as LEN says: delivered, or as it was (R22). -/
theorem getElem_deliverWords_of_length {len : Half} {v : List Half} (hv : v.length = len.toNat) (w : Config.Block)
    (k : Fin 29) : (deliverWords len v w)[k] = v.getD k w[k] := by
  rw [Fin.getElem_fin, getElem_deliverWords len v w k k.isLt, List.getD_eq_getElem?_getD]
  split
  · rfl
  · rw [List.getElem?_eq_none (by omega), Option.getD_none, Fin.getElem_fin]

/-- A whole block leaves nothing of the old buffer (R22). -/
theorem deliverWords_full_congr {len : Half} {v : List Half} (hlen : len.toNat = 29) (hv : v.length = 29)
    (w w' : Config.Block) : deliverWords len v w = deliverWords len v w' := by
  ext k hk
  rw [Decoder.getElem_deliverWords_full hlen hv w k hk, Decoder.getElem_deliverWords_full hlen hv w' k hk]

/-! ### The obligations -/

/-- Settles O8: the head of a typed port decodes to its command, which ends in a next state and leaves the port alone. -/
theorem typedHostIsNeverRefused : Obligations.TypedHostIsNeverRefused := by
  unfold Obligations.TypedHostIsNeverRefused
  rintro s ⟨is, hwf, hport⟩
  cases is with
  | nil => exact ⟨s, Port.step_of_port_nil hport, [], by simp, hport⟩
  | cons i is =>
    obtain ⟨hi, his⟩ := List.forall_mem_cons.1 hwf
    have hdecode : decodePort s.port = .ok (i, is.flatMap encode) := by
      rw [hport, List.flatMap_cons, Port.decodePort_encode_append hi]
    obtain ⟨t, hrun, heffect⟩ := exists_effect i { s with port := is.flatMap encode }
    exact ⟨t, (Port.step_of_decodePort hdecode).trans hrun, is, his, heffect.port_eq⟩

/-- Settles O20: no effect writes `init`. -/
theorem parametersAreNeverWritten : Obligations.ParametersAreNeverWritten := by
  unfold Obligations.ParametersAreNeverWritten
  intro s t h
  obtain rfl | ⟨i, rest, _, hrun⟩ := Port.eq_or_exec_of_step h
  · rfl
  · exact (effect_of_exec hrun).init_eq

/-- Settles O36: each command's entry in the table of errors. -/
theorem eachCommandRaisesItsErrors : Obligations.EachCommandRaisesItsErrors := by
  unfold Obligations.EachCommandRaisesItsErrors
  intro i s t h
  cases i with
  | nop => exact errq_eq_of_errorOf_none rfl h
  | register => exact ⟨errq_eq_of_errorOf_none rfl h, errKind_of_errorOf_none (by simp) rfl h⟩
  | cycle len words ts =>
    by_cases hlen : len.toNat = 29
    · have herr := errorOf_cycle_full hlen words ts
      exact (if_pos hlen).mpr ⟨errq_eq_of_errorOf_none herr h, errKind_of_errorOf_none (by simp) herr h⟩
    · have herr := errorOf_cycle_of_ne hlen words ts
      obtain ⟨hlog, hkind⟩ := logged_of_errorOf herr h
      exact (if_neg hlen).mpr ⟨hlog, hkind, errReason_of_errorOf herr h⟩
  | cycleFail ts detail => exact logged_of_errorOf rfl h
  | decode len words =>
    by_cases hlen : len.toNat = 29
    · have herr := errorOf_decode_full hlen words
      exact (if_pos hlen).mpr ⟨errq_eq_of_errorOf_none herr h, errKind_of_errorOf_none (by simp) herr h⟩
    · have herr := errorOf_decode_of_ne hlen words
      obtain ⟨hlog, hkind⟩ := logged_of_errorOf herr h
      exact (if_neg hlen).mpr ⟨hlog, hkind, errReason_of_errorOf herr h⟩
  | illegalOp5 => exact logged_of_errorOf rfl h
  | illegalOp6 => exact logged_of_errorOf rfl h
  | illegalOp7 => exact logged_of_errorOf rfl h
  | illegalRsv c => exact logged_of_errorOf rfl h

/-- Settles O37: an idle step appends nothing, and a command what its effect appends. -/
theorem streamsOnlyGrow : Obligations.StreamsOnlyGrow := by
  unfold Obligations.StreamsOnlyGrow
  intro s t h
  obtain rfl | ⟨i, rest, _, hrun⟩ := Port.eq_or_exec_of_step h
  · exact ⟨[], [], by simp⟩
  · exact streams_of_effect (s := { s with port := rest }) (effect_of_exec hrun)

/-- Settles O38: a successful CYCLE counts its 1 to 3 records, and every other command but NOP writes 0. -/
theorem eventCountIsTheNumberEmitted : Obligations.EventCountIsTheNumberEmitted := by
  unfold Obligations.EventCountIsTheNumberEmitted
  intro i s t hnop h
  cases effect_of_exec h with
  | nop => exact absurd rfl hnop
  | register => simp [Result.zero]
  | cycle len words ts _ hlen =>
    have hcount := cycleDone_evCount len words ts (telemetryOf (deliverWords len words s.w)) s
    refine ⟨by rw [cycleDone_evq, List.length_append, hcount], fun _ => ⟨len, words, ts, rfl, hlen⟩, fun _ hzero => ?_⟩
    obtain ⟨hpos, _⟩ := classify_events_length s.freeCtr (telemetryOf (deliverWords len words s.w)) s.session.prevStatus
      s.session.prevWeld ts
    rw [← hcount, hzero] at hpos
    exact Nat.not_succ_le_zero 0 hpos
  | decode len words _ hlen => simp [Result.zero]
  | error _ r _ herr =>
    refine ⟨by simp, by simp, ?_⟩
    rintro ⟨len, words, ts, rfl, hlen⟩
    cases (errorOf_cycle_full hlen words ts).symm.trans herr

/-- Settles O39: of the five effects only two write the session. -/
theorem onlyRegisterAndCycleWriteTheSession : Obligations.OnlyRegisterAndCycleWriteTheSession := by
  unfold Obligations.OnlyRegisterAndCycleWriteTheSession
  intro i s t h hchanged
  cases effect_of_exec h with
  | nop => exact absurd rfl hchanged
  | register => exact .inl rfl
  | cycle len words ts _ hlen => exact .inr ⟨len, words, ts, rfl, hlen⟩
  | decode => exact absurd (decodeDone_session ..) hchanged
  | error => exact absurd (by simp) hchanged

/-- Settles O40: the two successes write the decode of the W they leave, and nothing else but REGISTER writes the latch. -/
theorem latchIsAllOrNothing : Obligations.LatchIsAllOrNothing := by
  unfold Obligations.LatchIsAllOrNothing
  intro i s t hregister h
  cases effect_of_exec h with
  | nop => exact .inl rfl
  | register => exact absurd rfl hregister
  | cycle len words ts _ hlen => exact .inr (by simpa [hlen] using decodeBlock_ok _ len hlen)
  | decode len words _ hlen => exact .inr (by simpa [hlen] using decodeBlock_ok _ len hlen)
  | error => exact .inl (by simp)

/-- Settles O41: an error writes the buffer only where its command delivered a block. -/
theorem onlyBlockCommandsWriteTheBuffer : Obligations.OnlyBlockCommandsWriteTheBuffer := by
  unfold Obligations.OnlyBlockCommandsWriteTheBuffer
  intro i s t h hchanged
  cases effect_of_exec h with
  | nop => simp at hchanged
  | register => exact .inl rfl
  | cycle len words ts => exact .inr (.inl ⟨len, words, ts, rfl⟩)
  | decode len words => exact .inr (.inr ⟨len, words, rfl⟩)
  | error _ r _ herr =>
    obtain hcycle | hdecode | hsame := delivered_eq_self_or i s
    · exact .inr (.inl hcycle)
    · exact .inr (.inr hdecode)
    · simp [hsame] at hchanged

/-- Settles O12: the error outcome on the delivered block. -/
theorem decodeCommandRejectsOtherLengths : Obligations.DecodeCommandRejectsOtherLengths := by
  unfold Obligations.DecodeCommandRejectsOtherLengths
  intro len v s hlen
  exact ⟨_, exec_of_errorOf (errorOf_decode_of_ne hlen v) s, rfl, fun hv => getElem_deliverWords_of_length hv s.w⟩

/-- Settles O14: the same outcome, with CYCLE's CMD byte and timestamp in the record. -/
theorem cycleRejectsOtherLengths : Obligations.CycleRejectsOtherLengths := by
  unfold Obligations.CycleRejectsOtherLengths
  intro len v ts s hlen
  exact ⟨_, exec_of_errorOf (errorOf_cycle_of_ne hlen v ts) s, rfl, fun hv => getElem_deliverWords_of_length hv s.w⟩

end Sys2Proof.Proofs.Frames
end

section
/-!
PROOFS. The sound states (10_state.md sections 3 and 6, 60_exceptions.md R191 to R196): the power-on state is one, and each
clause of the invariant is kept by every effect of a well-formed command.
-/

namespace Sys2Proof.Proofs.Soundness

open Sys2Proof Sys2Proof.Machine Sys2Proof.Proofs.Effects

/-! ### The records a well-formed command can raise -/

/-- A CMD byte with a nonzero RSV is reserved (R75). -/
theorem reservedCmd_of_cmdRsv_ne_zero {c : Byte} (h : cmdRsv c ≠ 0) : reservedCmd c = true := by
  rw [reservedCmd, bne_iff_ne.2 h, Bool.true_or]

/-- The error of a well-formed command is one that its command can write (R193, R196). -/
theorem legalError_of_errorOf {i : Instr} {r : ErrorRecord} (hwf : i.wellFormed = true) (herr : errorOf i = some r) :
    LegalError r := by
  cases i with
  | nop => cases herr
  | register => cases herr
  | cycle len words ts =>
    obtain ⟨reason, hreason, rfl⟩ := Option.map_eq_some_iff.1 herr
    exact ⟨ne_none_of_lengthError hreason, .inl ⟨rfl, rfl⟩, rfl⟩
  | cycleFail ts detail => cases herr; exact ⟨rfl, rfl, rfl, rfl⟩
  | decode len words =>
    obtain ⟨reason, hreason, rfl⟩ := Option.map_eq_some_iff.1 herr
    exact ⟨ne_none_of_lengthError hreason, .inr ⟨rfl, rfl⟩, rfl⟩
  | illegalOp5 => cases herr; exact ⟨rfl, rfl, rfl, rfl⟩
  | illegalOp6 => cases herr; exact ⟨rfl, rfl, rfl, rfl⟩
  | illegalOp7 => cases herr; exact ⟨rfl, rfl, rfl, rfl⟩
  | illegalRsv c => cases herr; exact ⟨rfl, reservedCmd_of_cmdRsv_ne_zero (bne_iff_ne.1 hwf), rfl, rfl⟩

/-- A legal record names an error. -/
theorem kind_ne_none_of_legalError {r : ErrorRecord} (h : LegalError r) : r.kind ≠ .none := by
  intro hkind
  simp only [LegalError, hkind] at h

/-- A legal record has a reason exactly for DecodeError (R192). -/
theorem reason_ne_none_iff_of_legalError {r : ErrorRecord} (h : LegalError r) :
    r.reason ≠ .none ↔ r.kind = .decode := by
  cases hkind : r.kind with
  | none => exact absurd hkind (kind_ne_none_of_legalError h)
  | transport =>
    simp only [LegalError, hkind] at h
    obtain ⟨hreason, _⟩ := h
    simp [hreason]
  | decode =>
    simp only [LegalError, hkind] at h
    obtain ⟨hreason, _⟩ := h
    simp [hreason]
  | illegalCmd =>
    simp only [LegalError, hkind] at h
    obtain ⟨hreason, _⟩ := h
    simp [hreason]

/-- An error that keeps TEL_VALID is raised by a command that delivers no block (R195, R196). -/
theorem delivered_eq_self_of_keeps {i : Instr} {r : ErrorRecord} (herr : errorOf i = some r)
    (hkeeps : clearsTelValid r.kind = false) (s : State) : Exceptions.delivered i s = s := by
  cases i with
  | cycle len words ts =>
    obtain ⟨reason, _, rfl⟩ := Option.map_eq_some_iff.1 herr
    cases hkeeps
  | decode len words =>
    obtain ⟨reason, _, rfl⟩ := Option.map_eq_some_iff.1 herr
    cases hkeeps
  | _ => rfl

/-! ### Clause by clause -/

section
variable {i : Instr} {s t : State}

theorem latchCoherent_of_effect (heffect : Effect i s t) (h : LatchCoherent s) : LatchCoherent t := by
  cases heffect with
  | nop => exact h
  | register => exact fun hvalid => Bool.noConfusion hvalid
  | cycle len words ts _ hlen =>
    intro _
    rw [cycleDone_w, cycleDone_blkLen, cycleDone_latch, decodeBlock_ok _ _ hlen]
  | decode len words _ hlen =>
    intro _
    rw [decodeDone_w, decodeDone_blkLen, decodeDone_latch, decodeBlock_ok _ _ hlen]
  | error _ r _ herr =>
    cases hclears : clearsTelValid r.kind with
    | true =>
      intro hvalid
      rw [raise_telValid, if_pos hclears] at hvalid
      cases hvalid
    | false =>
      rw [delivered_eq_self_of_keeps herr hclears]
      intro hvalid
      rw [raise_telValid, hclears] at hvalid
      exact h hvalid

/-- A RESULT without an error is legal in any state. -/
theorem legalResult_of_no_error (hkind : t.result.errKind = .none) (hreason : t.result.errReason = .none) :
    LegalResult t := by
  simp [LegalResult, hkind, hreason, clearsTelValid]

/-- The error outcome of a legal record leaves a legal RESULT (R195). -/
theorem legalResult_raise {r : ErrorRecord} (hr : LegalError r) (s : State) : LegalResult (raise r s) := by
  refine ⟨reason_ne_none_iff_of_legalError hr, fun _ => rfl, ?_, fun _ => ⟨r, by simp, rfl, rfl⟩⟩
  intro hvalid
  cases hclears : clearsTelValid r.kind with
  | true => rw [raise_telValid, if_pos hclears] at hvalid; cases hvalid
  | false => exact hclears

theorem legalResult_of_effect (hwf : i.wellFormed = true) (heffect : Effect i s t) (h : LegalResult s) :
    LegalResult t := by
  cases heffect with
  | nop => exact h
  | register => exact legalResult_of_no_error rfl rfl
  | cycle => exact legalResult_of_no_error (by simp) (by simp)
  | decode => exact legalResult_of_no_error rfl rfl
  | error _ r _ herr => exact legalResult_raise (legalError_of_errorOf hwf herr) _

theorem legalErrors_of_effect (hwf : i.wellFormed = true) (heffect : Effect i s t) (h : ∀ r ∈ s.errq, LegalError r) :
    ∀ r ∈ t.errq, LegalError r := by
  cases heffect with
  | error _ r _ herr =>
    rw [raise_errq, delivered_errq, List.forall_mem_append]
    exact ⟨h, List.forall_mem_singleton.2 (legalError_of_errorOf hwf herr)⟩
  | cycle => simpa using h
  | _ => exact h

/-- The records of a classification are those of one cycle (R134). -/
theorem cycleGroup_classify (n : Nat) (tel : Telemetry) (ps : MachineStatus) (pw : Bool) (ts : TS) :
    CycleGroup (classify n tel ps pw ts).events := by
  obtain ⟨U, I, status, weld, _, _, _, _, hevents⟩ := Classifier.classifyEmitsMeasurementThenEdges n tel ps pw ts
  rw [hevents]
  exact ⟨U, I, status, weld, tel.addr, ts, decide (status ≠ ps), decide (weld ≠ pw), by simp only [decide_eq_true_eq]⟩

/-- One more cycle's records behind whole cycles' records. -/
theorem groupedEvents_append {q g : List EventRecord} (hq : GroupedEvents q) (hg : CycleGroup g) :
    GroupedEvents (q ++ g) := by
  obtain ⟨gs, hgs, rfl⟩ := hq
  exact ⟨gs ++ [g], List.forall_mem_append.2 ⟨hgs, List.forall_mem_singleton.2 hg⟩, by simp⟩

theorem groupedEvents_of_effect (heffect : Effect i s t) (h : GroupedEvents s.evq) : GroupedEvents t.evq := by
  cases heffect with
  | cycle =>
    rw [cycleDone_evq]
    exact groupedEvents_append h (cycleGroup_classify ..)
  | error => simpa using h
  | _ => exact h

/-- Every well-formed command keeps a sound state sound. -/
theorem inv_of_effect (hwf : i.wellFormed = true) (heffect : Effect i s t) (h : Inv s) : Inv t where
  latch := latchCoherent_of_effect heffect h.latch
  result := legalResult_of_effect hwf heffect h.result
  errors := legalErrors_of_effect hwf heffect h.errors
  events := groupedEvents_of_effect heffect h.events

/-- The invariant does not speak of the port. -/
theorem inv_of_port (h : Inv s) (rest : List PortField) : Inv { s with port := rest } :=
  ⟨h.latch, h.result, h.errors, h.events⟩

end

theorem inv_resetWith (p : Config.Init) : Inv (State.resetWith p) where
  latch := fun hvalid => Bool.noConfusion hvalid
  result := legalResult_of_no_error rfl rfl
  errors := fun _ hr => absurd hr List.not_mem_nil
  events := ⟨[], by simp, rfl⟩

/-! ### The obligations -/

/-- Settles O42: nothing is valid, logged or emitted at power-on. -/
theorem powerOnStateIsSound : Obligations.PowerOnStateIsSound := by
  unfold Obligations.PowerOnStateIsSound
  exact ⟨inv_resetWith, inv_resetWith Config.init⟩

/-- Settles O43: the command a step takes from the port is well-formed, and its effect keeps every clause. -/
theorem everyStepKeepsTheStateSound : Obligations.EveryStepKeepsTheStateSound := by
  unfold Obligations.EveryStepKeepsTheStateSound
  intro s t hinv h
  obtain rfl | ⟨i, rest, hwf, hrun⟩ := Port.eq_or_exec_of_step h
  · exact hinv
  · exact inv_of_effect hwf (effect_of_exec hrun) (inv_of_port hinv rest)

end Sys2Proof.Proofs.Soundness
end

section
/-!
PROOFS. Runs that the buffer and the failed commands do not touch: W and BLK_LEN are never observable (10_state.md R22, R31),
CYCLE's whole pipeline (42_commands.md R154), and the edge detector over two commands (41_classifier.md R137, R138).
-/

namespace Sys2Proof.Proofs.Pipeline

open Sys2Proof Sys2Proof.Machine Sys2Proof.Proofs.Effects

/-! ### States that differ in the buffer alone -/

/-- The state with another W and BLK_LEN. -/
def withBuffer (s : State) (len : Half) (w : Config.Block) : State := { s with blkLen := len, w := w }

theorem sameButBuffer_withBuffer (s : State) (len : Half) (w : Config.Block) : SameButBuffer s (withBuffer s len w) := rfl

theorem eq_withBuffer_of_sameButBuffer {s t : State} (h : SameButBuffer s t) : t = withBuffer s t.blkLen t.w := h.symm

section
variable (s : State) (len : Half) (w : Config.Block)

@[simp] theorem withBuffer_w : (withBuffer s len w).w = w := rfl

/-- No read looks at the buffer (R31, R34). -/
theorem hostRead_withBuffer (off : Nat) : hostRead (withBuffer s len w) off = hostRead s off := rfl

end

/-- A well-formed command takes states that differ in the buffer alone to such states: a whole block replaces all of W, and
nothing else is read from it. -/
theorem effect_withBuffer {i : Instr} {s t : State} (hwf : i.wellFormed = true) (h : Effect i s t) (len : Half)
    (w : Config.Block) : ∃ t', Effect i (withBuffer s len w) t' ∧ SameButBuffer t t' := by
  cases h with
  | nop => exact ⟨_, .nop _, rfl⟩
  | register => exact ⟨_, .register _, rfl⟩
  | cycle n words ts _ hn =>
    have hwords : words.length = 29 := (beq_iff_eq.1 hwf).symm.trans hn
    refine ⟨_, .cycle n words ts _ hn, ?_⟩
    rw [withBuffer_w, Frames.deliverWords_full_congr hn hwords w s.w]
    rfl
  | decode n words _ hn =>
    have hwords : words.length = 29 := (beq_iff_eq.1 hwf).symm.trans hn
    refine ⟨_, .decode n words _ hn, ?_⟩
    rw [decodeDone, decodeDone, withBuffer_w, Frames.deliverWords_full_congr hn hwords w s.w]
    rfl
  | error _ r _ herr =>
    refine ⟨_, .error i r _ herr, ?_⟩
    cases i <;> rfl

/-! ### A whole CYCLE -/

/-- The records a successful CYCLE appends, in terms of the session before and after it (R132 to R136). -/
theorem evq_of_exec_cycle_full {len : Half} (hlen : len.toNat = 29) {words : List Half} {ts : TS} {s t : State}
    (h : exec (.cycle len words ts) s = .next t) :
    ∃ U I, t.evq = s.evq ++ (EventRecord.measurement U I t.session.prevStatus t.session.prevWeld t.session.lastAddr ts ::
      ((if t.session.prevStatus ≠ s.session.prevStatus then
          [EventRecord.statusChanged t.session.prevStatus t.session.lastAddr ts] else []) ++
        (if t.session.prevWeld ≠ s.session.prevWeld then
          [EventRecord.wmStatusChanged t.session.prevWeld t.session.lastAddr ts] else []))) := by
  obtain rfl := Host.Outcome.next.inj (h.symm.trans (exec_cycle_full hlen words ts s))
  obtain ⟨U, I, _, _, rfl, rfl, _, _, hevents⟩ := Classifier.classifyEmitsMeasurementThenEdges s.freeCtr
    (telemetryOf (deliverWords len words s.w)) s.session.prevStatus s.session.prevWeld ts
  exact ⟨U, I, by rw [cycleDone_evq, cycleDone_session, hevents]⟩

/-- A command that is neither REGISTER nor a successful CYCLE leaves all that the edge detector reads (R137). -/
theorem edge_frame_of_effect {i : Instr} {s t : State} (h : Effect i s t) (hregister : i ≠ .register)
    (hcycle : ∀ len words ts, i = .cycle len words ts → len.toNat ≠ 29) :
    t.evq = s.evq ∧ t.session = s.session ∧ t.freeCtr = s.freeCtr := by
  cases h with
  | register => exact absurd rfl hregister
  | cycle len words ts _ hlen => exact absurd hlen (hcycle len words ts rfl)
  | _ => simp

/-! ### The obligations -/

/-- Settles O44: the port is not the buffer, so both steps take the same command, whose effects again differ in the buffer
alone. -/
theorem bufferIsNeverObservable : Obligations.BufferIsNeverObservable := by
  unfold Obligations.BufferIsNeverObservable
  intro s t hst
  rw [eq_withBuffer_of_sameButBuffer hst]
  generalize t.blkLen = len, t.w = w
  refine ⟨fun off => (hostRead_withBuffer s len w off).symm, ?_⟩
  obtain ⟨i, rest, hdecode, hstep⟩ | ⟨hdecode, hstep⟩ | ⟨e, hne, hdecode, hstep⟩ := step_cases s
  · obtain ⟨s', hrun, heffect⟩ := exists_effect i { s with port := rest }
    have hwf := (Port.wellFormed_and_eq_of_decodePort hdecode).1
    obtain ⟨t', heffect', hsame⟩ := effect_withBuffer hwf heffect len w
    have hstep' : step (withBuffer s len w) = exec i (withBuffer { s with port := rest } len w) :=
      Port.step_of_decodePort (s := withBuffer s len w) hdecode
    rw [hstep, hrun, hstep', exec_of_effect heffect']
    exact hsame
  · rw [hstep, Port.step_of_decodePort_noCommand (s := withBuffer s len w) hdecode]
    exact sameButBuffer_withBuffer s len w
  · rw [hstep, Port.step_of_decodePort_error (s := withBuffer s len w) hne hdecode]
    exact rfl

/-- Settles O13: the one outcome of CYCLE with 29 words, read field by field. -/
theorem cycleRunsTheWholePipeline : Obligations.CycleRunsTheWholePipeline := by
  unfold Obligations.CycleRunsTheWholePipeline
  intro len v ts s hlen hv
  have hword := Decoder.getElem_deliverWords_full hlen hv s.w
  refine ⟨_, exec_cycle_full hlen v ts s, cycleDone_blkLen .., fun k => ?words, fun i => ?floats, fun c => ?digital,
    ?addr, cycleDone_telValid .., ?evq, ?status, ?weld, ?lastAddr, by rw [cycleDone_result], by rw [cycleDone_result],
    ?count, cycleDone_errq .., cycleDone_port .., cycleDone_init ..⟩
  case words => rw [cycleDone_w, Fin.getElem_fin, hword k k.isLt]
  case floats =>
    rw [cycleDone_latch, Decoder.telemetryOf_float, hword (2 * i) (by omega), hword (2 * i + 1) (by omega)]
  case digital => rw [cycleDone_latch, Decoder.telemetryOf_digital, hword (24 + c / 2) (by omega)]
  case addr => rw [cycleDone_latch, Decoder.telemetryOf_addr, hword 28 (by decide)]
  case evq => rw [cycleDone_evq, cycleDone_latch]
  case status => rw [cycleDone_session, cycleDone_latch]
  case weld => rw [cycleDone_session, cycleDone_latch]
  case lastAddr => rw [cycleDone_session, Decoder.telemetryOf_addr, hword 28 (by decide)]
  case count => rw [Frames.cycleDone_evCount, cycleDone_evq, List.length_append]

/-- Settles O21: REGISTER leaves the parameters as the session that the next cycle compares with. -/
theorem firstCycleComparesWithTheParameters : Obligations.FirstCycleComparesWithTheParameters := by
  unfold Obligations.FirstCycleComparesWithTheParameters
  intro s t u len v ts hlen hregister hcycle
  obtain rfl := Host.Outcome.next.inj (hregister.symm.trans (Exceptions.exec_register s))
  exact evq_of_exec_cycle_full hlen hcycle

/-- Settles O22: the same with PowerOff and an inactive weld as the parameters. -/
theorem firstCycleComparesWithTheDefaults : Obligations.FirstCycleComparesWithTheDefaults := by
  unfold Obligations.FirstCycleComparesWithTheDefaults
  intro s t u len v ts hlen hinit hregister hcycle
  obtain ⟨U, I, hevq⟩ := firstCycleComparesWithTheParameters s t u len v ts hlen hregister hcycle
  refine ⟨U, I, ?_⟩
  have hstatus : s.init.status = .powerOff := congrArg Config.Init.status hinit
  have hweld : s.init.weld = false := congrArg Config.Init.weld hinit
  rw [hevq, hstatus, hweld]
  cases u.session.prevWeld <;> rfl

/-- Settles O33: the session before the second cycle is the one after the first. -/
theorem secondCycleReportsOnlyChanges : Obligations.SecondCycleReportsOnlyChanges := by
  unfold Obligations.SecondCycleReportsOnlyChanges
  intro s t u v v' ts ts' _ hcycle
  exact evq_of_exec_cycle_full rfl hcycle

/-- Settles O34: both runs decode the same telemetry and classify it with the same prior session. -/
theorem failedCyclesAreInvisibleToTheEdgeDetector : Obligations.FailedCyclesAreInvisibleToTheEdgeDetector := by
  unfold Obligations.FailedCyclesAreInvisibleToTheEdgeDetector
  intro i s f t u v ts hv hregister hcycle hrun hafter hwithout
  obtain ⟨hevq, hsession, hfree⟩ := edge_frame_of_effect (effect_of_exec hrun) hregister hcycle
  obtain rfl := Host.Outcome.next.inj (hafter.symm.trans (exec_cycle_full rfl v ts f))
  obtain rfl := Host.Outcome.next.inj (hwithout.symm.trans (exec_cycle_full rfl v ts s))
  rw [Frames.deliverWords_full_congr rfl hv f.w s.w]
  simp only [cycleDone_evq, cycleDone_session, cycleDone_latch, cycleDone_result, hevq, hsession, hfree, and_self]

end Sys2Proof.Proofs.Pipeline
end

section
/-!
PROOFS. Reset and configuration (10_state.md R25, R34 to R40, 70_reset_and_hazards.md R220, R221), with the obligations about
the power-on state, REGISTER and the rest of the read map.
-/

namespace Sys2Proof.Proofs.Reset

open Sys2Proof Sys2Proof.Machine

/-! ### The reset values of the latch (R40) -/

theorem telemetryZero_float (k : Fin 12) : Telemetry.zero.floats[k] = 0 := by
  rw [Telemetry.zero, Fin.getElem_fin, Vector.getElem_replicate]

theorem telemetryZero_digital (j : Fin 8) : Telemetry.zero.dig[j] = 0 := by
  rw [Telemetry.zero, Fin.getElem_fin, Vector.getElem_replicate]

/-! ### The configured status code (R25) -/

/-- A status is read back from its code. -/
theorem statusOfCode_statusCode (st : MachineStatus) : statusOfCode (statusCode st) = some st := by
  cases st <;> rfl

/-- The codes 0 to 5 are those of the six values (R81). -/
theorem exists_statusCode_eq_of_le : ∀ c : BitVec 3, c.toNat ≤ 5 → ∃ st, statusCode st = c := by
  intro c hc
  have hcode : c = 0 ∨ c = 1 ∨ c = 2 ∨ c = 3 ∨ c = 4 ∨ c = 5 := by bv_omega
  obtain rfl | rfl | rfl | rfl | rfl | rfl := hcode
  · exact ⟨.powerOff, rfl⟩
  · exact ⟨.autoRunning, rfl⟩
  · exact ⟨.autoIdle, rfl⟩
  · exact ⟨.menuRunning, rfl⟩
  · exact ⟨.menuIdle, rfl⟩
  · exact ⟨.stopped, rfl⟩

theorem statusOfCode_of_gt {c : BitVec 3} (hc : 5 < c.toNat) : statusOfCode c = none := by
  have hcode : c = 6 ∨ c = 7 := by bv_omega
  obtain rfl | rfl := hcode <;> rfl

theorem resetOfCodes_statusCode (st : MachineStatus) (weld : Bool) (addr : Half) :
    resetOfCodes (statusCode st) weld addr = .ok (State.resetWith { status := st, weld := weld, addr := addr }) := by
  rw [resetOfCodes, initOfCodes, statusOfCode_statusCode]
  rfl

theorem resetOfCodes_of_gt {c : BitVec 3} (hc : 5 < c.toNat) (weld : Bool) (addr : Half) :
    resetOfCodes c weld addr = .error (.initStatusOutOfRange c) := by
  rw [resetOfCodes, initOfCodes, statusOfCode_of_gt hc]
  rfl

/-! ### The rest of the read map (R34, R39) -/

/-- The parts of the read map that read 0 (R34). -/
def Reserved (off : Nat) : Prop :=
  (0x03 ≤ off ∧ off ≤ 0x0F) ∨ (0x1C ≤ off ∧ off ≤ 0x1F) ∨ (0x29 ≤ off ∧ off ≤ 0x3F)

section
variable (s : State) {off : Nat}

/-- Beside the offsets with a value the map reads 0 below 0x40 and refuses the rest. -/
theorem hostRead_of_no_value (hlow : 0x02 < off) (hfloat : ¬(0x10 ≤ off ∧ off < 0x10 + Config.F))
    (hdigital : ¬(0x20 ≤ off ∧ off < 0x20 + Config.C)) (haddr : off ≠ 0x28) :
    hostRead s off = if off < 0x40 then .ok 0 else .error (.hostReadOutOfRange off) := by
  simp only [hostRead]
  rw [if_neg (by omega), if_neg (by omega), if_neg (by omega), dif_neg hfloat, dif_neg hdigital, if_neg haddr]

theorem hostRead_of_reserved (h : Reserved off) : hostRead s off = .ok 0 := by
  unfold Reserved at h
  rw [hostRead_of_no_value s (by omega) (by simp only [Config.F]; omega) (by simp only [Config.C]; omega) (by omega),
    if_pos (by omega)]

theorem hostRead_of_le (h : 0x40 ≤ off) : hostRead s off = .error (.hostReadOutOfRange off) := by
  rw [hostRead_of_no_value s (by omega) (by simp only [Config.F]; omega) (by simp only [Config.C]; omega) (by omega),
    if_neg (by omega)]

end

/-! ### The obligations -/

/-- Settles O10: the fields of the reset operation. -/
theorem registerResetsTheBlock : Obligations.RegisterResetsTheBlock := by
  unfold Obligations.RegisterResetsTheBlock
  intro s
  exact ⟨resetBlock s, Exceptions.exec_register s, resetBlock_blkLen s, resetBlock_session s, telemetryZero_float,
    telemetryZero_digital, rfl, resetBlock_telValid s, resetBlock_result s, resetBlock_evq s, resetBlock_errq s,
    resetBlock_port s, resetBlock_init s⟩

/-- Settles O17: the fields of `State.resetWith`; PARAM is a constant of every state. -/
theorem powerOnValues : Obligations.PowerOnValues := by
  unfold Obligations.PowerOnValues
  refine ⟨fun p => ?_, rfl, rfl⟩
  exact ⟨resetWith_blkLen p, resetWith_session p, telemetryZero_float, telemetryZero_digital, rfl, resetWith_telValid p,
    resetWith_result p, resetWith_evq p, resetWith_errq p, HostRead.paramIsConstant (State.resetWith p)⟩

/-- Settles O18: REGISTER's meaning is the reset operation. -/
theorem registerHasTheEffectOfReset : Obligations.RegisterHasTheEffectOfReset := by
  unfold Obligations.RegisterHasTheEffectOfReset
  exact fun s => ⟨Exceptions.exec_register s, resetBlock_evq s, resetBlock_errq s, rfl⟩

/-- Settles O19: a code is that of a status, which becomes the parameter, or is refused. -/
theorem parametersComeFromTheirCodes : Obligations.ParametersComeFromTheirCodes := by
  unfold Obligations.ParametersComeFromTheirCodes
  intro status weld addr
  refine ⟨fun hle => ?_, fun hgt => resetOfCodes_of_gt hgt weld addr⟩
  obtain ⟨st, rfl⟩ := exists_statusCode_eq_of_le status hle
  exact ⟨⟨st, weld, addr⟩, resetOfCodes_statusCode st weld addr, rfl, rfl, rfl, resetWith_init _, rfl⟩

/-- Settles O49: what is left of the map beside the offsets with a value. -/
theorem otherOffsetsReadZeroOrAreRefused : Obligations.OtherOffsetsReadZeroOrAreRefused := by
  unfold Obligations.OtherOffsetsReadZeroOrAreRefused
  exact fun s off => ⟨hostRead_of_reserved s, hostRead_of_le s⟩

end Sys2Proof.Proofs.Reset
end

section
/-!
PROOFS. The remap and its inverse (40_decoder.md R104, R111), the words of the BLOCK operand (30_encoding.md R89), the
priority table of the status (41_classifier.md R128) and the header of an error record (30_encoding.md R87).
-/

namespace Sys2Proof.Proofs.Blocks

open Sys2Proof Sys2Proof.Machine

/-! ### Bytes and the remap (R12, R111) -/

theorem lo8_append (hi lo : Byte) : lo8 (hi ++ lo) = lo := BitVec.extractLsb'_append_eq_right

theorem hi8_append (hi lo : Byte) : hi8 (hi ++ lo) = hi := BitVec.extractLsb'_append_eq_left

/-- Swapping the bytes twice gives the word back. -/
theorem bswap16_bswap16 (w : Half) : bswap16 (bswap16 w) = w := by
  have hbytes : hi8 w ++ lo8 w = w :=
    (EncodingFields.extractLsb'_eq_append w 0 8 8).symm.trans BitVec.extractLsb'_eq_self
  rw [bswap16, bswap16, lo8_append, hi8_append, hbytes]

theorem remap_unmap (b : Word) : remap (unmap b).1 (unmap b).2 = b := by
  have hwords : b.extractLsb' 16 16 ++ b.extractLsb' 0 16 = b :=
    (EncodingFields.extractLsb'_eq_append b 0 16 16).symm.trans BitVec.extractLsb'_eq_self
  rw [EncodingFields.remap_eq_bswap16_append, unmap, bswap16_bswap16, bswap16_bswap16, hwords]

theorem unmap_remap (lo hi : Half) : unmap (remap lo hi) = (lo, hi) := by
  have hlow : (bswap16 hi ++ bswap16 lo).extractLsb' 0 16 = bswap16 lo := BitVec.extractLsb'_append_eq_right
  have hhigh : (bswap16 hi ++ bswap16 lo).extractLsb' 16 16 = bswap16 hi := BitVec.extractLsb'_append_eq_left
  rw [EncodingFields.remap_eq_bswap16_append, unmap, hlow, hhigh, bswap16_bswap16, bswap16_bswap16]

/-! ### The words of BLOCK (R89) -/

/-- Of a list of pairs laid out flat, the pair of item `k` stands at 2k and 2k + 1. -/
theorem getElem?_flatMap_pair {α β : Type} (g h : α → β) (l : List α) (k : Nat) (hk : k < l.length) :
    (l.flatMap fun b => [g b, h b])[2 * k]? = some (g l[k]) ∧
    (l.flatMap fun b => [g b, h b])[2 * k + 1]? = some (h l[k]) := by
  induction l generalizing k with
  | nil => exact absurd hk (Nat.not_lt_zero k)
  | cons b l ih =>
    cases k with
    | zero => exact ⟨rfl, rfl⟩
    | succ k => exact ih k (Nat.lt_of_succ_lt_succ hk)

section
variable (f : Vector Word 12) (d : Vector Byte 8) (a : Half)

/-- The words of the floats come first. -/
def floatWords : List Half := f.toList.flatMap fun b => [(unmap b).1, (unmap b).2]

/-- The digital words and the address follow. -/
def tailWords : List Half := [d[1] ++ d[0], d[3] ++ d[2], d[5] ++ d[4], d[7] ++ d[6], a]

theorem blockWords_eq : blockWords f d a = floatWords f ++ tailWords d a := by
  rw [blockWords, List.append_assoc]
  rfl

theorem floatWords_length : (floatWords f).length = 24 := by
  simp [floatWords, List.length_flatMap]

theorem blockWords_length : (blockWords f d a).length = 29 := by
  rw [blockWords_eq, List.length_append, floatWords_length]
  rfl

theorem blockWords_float (i : Fin 12) :
    (blockWords f d a).getD (2 * i) 0 = (unmap f[i]).1 ∧ (blockWords f d a).getD (2 * i + 1) 0 = (unmap f[i]).2 := by
  have hlen := floatWords_length f
  obtain ⟨hlo, hhi⟩ := getElem?_flatMap_pair (fun b => (unmap b).1) (fun b => (unmap b).2) f.toList i (by simp)
  rw [Vector.getElem_toList] at hlo hhi
  constructor
  · rw [blockWords_eq, List.getD_append _ _ _ _ (by omega), List.getD_eq_getElem?_getD, floatWords, hlo]
    rfl
  · rw [blockWords_eq, List.getD_append _ _ _ _ (by omega), List.getD_eq_getElem?_getD, floatWords, hhi]
    rfl

theorem blockWords_tail (k : Nat) : (blockWords f d a).getD (24 + k) 0 = (tailWords d a).getD k 0 := by
  have hlen := floatWords_length f
  rw [blockWords_eq, List.getD_append_right _ _ _ _ (by omega), hlen, Nat.add_sub_cancel_left]

/-- Each digital channel is its byte of the word it shares (R89, R107). -/
theorem tailWords_digital (c : Fin 8) :
    (if c.val % 2 = 0 then lo8 ((tailWords d a).getD (c / 2) 0) else hi8 ((tailWords d a).getD (c / 2) 0)) = d[c] := by
  match c with
  | 0 => exact lo8_append d[1] d[0]
  | 1 => exact hi8_append d[1] d[0]
  | 2 => exact lo8_append d[3] d[2]
  | 3 => exact hi8_append d[3] d[2]
  | 4 => exact lo8_append d[5] d[4]
  | 5 => exact hi8_append d[5] d[4]
  | 6 => exact lo8_append d[7] d[6]
  | 7 => exact hi8_append d[7] d[6]

end

/-! ### The header of an error record (R87) -/

section
variable (r : ErrorRecord)

theorem errorHeader_kind : (errorHeader r).extractLsb' 0 3 = kindCode r.kind :=
  BitVec.extractLsb'_append_eq_right

theorem errorHeader_reason : (errorHeader r).extractLsb' 3 2 = reasonCode r.reason := by
  rw [errorHeader, BitVec.extractLsb'_append_eq_of_le (by decide)]
  exact BitVec.extractLsb'_append_eq_right

theorem errorHeader_low_zeros : (errorHeader r).extractLsb' 5 3 = 0 := by
  rw [errorHeader, BitVec.extractLsb'_append_eq_of_le (by decide), BitVec.extractLsb'_append_eq_of_le (by decide)]
  exact BitVec.extractLsb'_append_eq_right

theorem errorHeader_cmd : (errorHeader r).extractLsb' 8 8 = r.cmd := by
  rw [errorHeader, BitVec.extractLsb'_append_eq_of_le (by decide), BitVec.extractLsb'_append_eq_of_le (by decide),
    BitVec.extractLsb'_append_eq_of_le (by decide)]
  exact BitVec.extractLsb'_append_eq_right

theorem errorHeader_time : (errorHeader r).getLsbD 16 = r.time.isSome := by
  rw [errorHeader, BitVec.getLsbD_append, if_neg (by decide), BitVec.getLsbD_append, if_neg (by decide),
    BitVec.getLsbD_append, if_neg (by decide), BitVec.getLsbD_append, if_neg (by decide), BitVec.getLsbD_append,
    if_pos (by decide)]
  simp

theorem errorHeader_detail : (errorHeader r).getLsbD 17 = r.detail.isSome := by
  rw [errorHeader, BitVec.getLsbD_append, if_neg (by decide), BitVec.getLsbD_append, if_neg (by decide),
    BitVec.getLsbD_append, if_neg (by decide), BitVec.getLsbD_append, if_neg (by decide), BitVec.getLsbD_append,
    if_neg (by decide), BitVec.getLsbD_append, if_pos (by decide)]
  simp

theorem errorHeader_high_zeros : (errorHeader r).extractLsb' 18 14 = 0 := by
  rw [errorHeader, BitVec.extractLsb'_append_eq_of_le (by decide), BitVec.extractLsb'_append_eq_of_le (by decide),
    BitVec.extractLsb'_append_eq_of_le (by decide), BitVec.extractLsb'_append_eq_of_le (by decide),
    BitVec.extractLsb'_append_eq_of_le (by decide)]
  exact BitVec.extractLsb'_append_eq_left

/-- The optional items of a record, in order (R87). -/
theorem packError_eq :
    packError r = .word (errorHeader r) :: ((match r.time with | some t => [.time t] | none => []) ++
      (match r.detail with | some d => [.detail d] | none => [])) := by
  rw [packError]
  cases r.time <;> cases r.detail <;> rfl

end

/-! ### The priority table (R128) -/

/-- Unless all three channels are zero, DeriveStatus and the table are the same chain of conditions. -/
theorem deriveStatus_eq_table (d5 d6 d7 : Byte) (prev : MachineStatus) :
    deriveStatus d5 d6 d7 prev =
      if d6 = 2 then .menuRunning
      else if d6 = 1 then .menuIdle
      else if d5 = 2 then .autoRunning
      else if d5 = 1 then .autoIdle
      else if d7 ≠ 0 then .stopped
      else if d5 = 0 ∧ d6 = 0 ∧ d7 = 0 then .powerOff
      else prev := by
  by_cases hzero : d5 = 0 ∧ d6 = 0 ∧ d7 = 0
  · obtain ⟨rfl, rfl, rfl⟩ := hzero
    rfl
  · simp only [deriveStatus, if_neg hzero]

/-! ### The obligations -/

/-- Settles O23: each side swaps the bytes of each word twice. -/
theorem remapIsABijection : Obligations.RemapIsABijection := by
  unfold Obligations.RemapIsABijection
  exact ⟨remap_unmap, unmap_remap⟩

/-- Settles O25: DECODE latches each channel from its words, which BLOCK wrote from that channel. -/
theorem blockOperandDecodesBack : Obligations.BlockOperandDecodesBack := by
  unfold Obligations.BlockOperandDecodesBack
  intro f d a s
  have hlen := blockWords_length f d a
  obtain ⟨t, hrun, _, _, hfloats, hdig, haddr, _⟩ := Decoder.decodeCommandLatchesEveryChannel 29 (blockWords f d a) s rfl hlen
  refine ⟨hlen, t, hrun, ?_⟩
  have hf : t.latch.floats = f := by
    refine Vector.ext fun i hi => ?_
    obtain ⟨hlo, hhi⟩ := blockWords_float f d a ⟨i, hi⟩
    have hfloat := hfloats ⟨i, hi⟩
    rw [hlo, hhi] at hfloat
    exact hfloat.trans (remap_unmap f[i])
  have hd : t.latch.dig = d := by
    refine Vector.ext fun c hc => ?_
    have hdigital := hdig ⟨c, hc⟩
    rw [blockWords_tail] at hdigital
    exact hdigital.trans (tailWords_digital d a ⟨c, hc⟩)
  have ha : t.latch.addr = a := haddr.trans (blockWords_tail f d a 4)
  rw [← hf, ← hd, ← ha]

/-- Settles O26: the classification's status is DeriveStatus of channels 5, 6 and 7, which is the table. -/
theorem statusFollowsEffectivePriority : Obligations.StatusFollowsEffectivePriority := by
  unfold Obligations.StatusFollowsEffectivePriority
  refine ⟨deriveStatus_eq_table, fun n tel prev pw ts => ?_⟩
  rw [Classifier.classify_status, deriveStatus_eq_table]

/-- Settles O51, field by field. -/
theorem errorHeaderFields : Obligations.ErrorHeaderFields := by
  unfold Obligations.ErrorHeaderFields
  exact ⟨HostRead.errorCodesAsGiven, fun r => ⟨errorHeader r, packError_eq r, errorHeader_kind r, errorHeader_reason r,
    errorHeader_low_zeros r, errorHeader_cmd r, errorHeader_time r, errorHeader_detail r, errorHeader_high_zeros r⟩⟩

end Sys2Proof.Proofs.Blocks
end

section
/-!
PROOFS. The host's side: the command of a poll cycle (60_exceptions.md R204, 42_commands.md R159) and the independence of the
blocks of two devices (20_memory.md R68, 60_exceptions.md R209).
-/

namespace Sys2Proof.Proofs.HostSide

open Sys2Proof Sys2Proof.Machine

/-! ### The command of a poll cycle (R159, R204) -/

section
variable (ts : TS)

theorem cycleCommand_block_of_lt {words : List Half} (h : words.length < 65536) :
    cycleCommand ts (.block words) = .ok (.cycle (BitVec.ofNat 16 words.length) words ts) :=
  if_pos h

theorem cycleCommand_block_of_le {words : List Half} (h : 65536 ≤ words.length) :
    cycleCommand ts (.block words) = .error (.tooManyWords words.length) :=
  if_neg (Nat.not_lt.2 h)

/-- LEN holds the number of words, where it can (R73). -/
theorem toNat_ofNat_length {words : List Half} (h : words.length < 65536) :
    (BitVec.ofNat 16 words.length).toNat = words.length := by
  rw [BitVec.toNat_ofNat, Nat.mod_eq_of_lt h]

/-- The host only issues well-formed commands (R73). -/
theorem wellFormed_of_cycleCommand {r : ReadOutcome} {i : Instr} (h : cycleCommand ts r = .ok i) :
    i.wellFormed = true := by
  cases r with
  | transportError d => cases h; rfl
  | block words =>
    rcases Nat.lt_or_ge words.length 65536 with hlt | hge
    · cases (cycleCommand_block_of_lt ts hlt).symm.trans h
      exact beq_iff_eq.2 (toNat_ofNat_length hlt)
    · cases (cycleCommand_block_of_le ts hge).symm.trans h

theorem pollCycle_of_ok {r : ReadOutcome} {i : Instr} (h : cycleCommand ts r = .ok i) (s : State) :
    pollCycle ts r s = step (issue i s) := by
  rw [pollCycle, h]

theorem pollCycle_of_error {r : ReadOutcome} {e : Refusal} (h : cycleCommand ts r = .error e) (s : State) :
    pollCycle ts r s = .refused e := by
  rw [pollCycle, h]

end

/-- A command issued on an empty port is the next step (R208). -/
theorem step_issue_of_port_nil {i : Instr} (hwf : i.wellFormed = true) {s : State} (hport : s.port = []) :
    step (issue i s) = exec i s := by
  have hissued : (issue i s).port = encode i ++ [] := by rw [issue_port, hport, List.nil_append, List.append_nil]
  have hdecode : decodePort (issue i s).port = .ok (i, []) := hissued ▸ Port.decodePort_encode_append hwf []
  rw [Port.step_of_decodePort hdecode, issue, ← hport]

/-! ### One step of one block among several (R68, R209) -/

/-- The two ways a block's step can answer: no such block, or that block's next state in its place. -/
theorem stepInstance_eq_next_iff {k : Nat} {f g : Fleet} :
    stepInstance k f = .next g ↔
      (f.blocks[k]? = none ∧ g = f) ∨
      ∃ s t, f.blocks[k]? = some s ∧ step s = .next t ∧ g = { blocks := f.blocks.set k t } := by
  unfold stepInstance
  cases f.blocks[k]? with
  | none => simp [eq_comm]
  | some s => cases hstep : step s <;> simp [hstep, eq_comm]

theorem getElem?_of_stepInstance {j k : Nat} (hjk : j ≠ k) {f g : Fleet} (h : stepInstance j f = .next g) :
    g.blocks[k]? = f.blocks[k]? := by
  obtain ⟨_, rfl⟩ | ⟨s, t, _, _, rfl⟩ := stepInstance_eq_next_iff.1 h
  · rfl
  · exact List.getElem?_set_ne hjk

/-- Where the first block's step is taken, the second's can be taken before it. -/
theorem stepInstance_comm {j k : Nat} (hjk : j ≠ k) {f g h : Fleet} (hj : stepInstance j f = .next g)
    (hk : stepInstance k g = .next h) : ∃ g', stepInstance k f = .next g' ∧ stepInstance j g' = .next h := by
  have hsame := getElem?_of_stepInstance hjk hj
  obtain ⟨hnone, rfl⟩ | ⟨s, t, hs, hstep, rfl⟩ := stepInstance_eq_next_iff.1 hk
  · exact ⟨f, stepInstance_eq_next_iff.2 (.inl ⟨hsame ▸ hnone, rfl⟩), hj⟩
  · have hk' : stepInstance k f = .next { blocks := f.blocks.set k t } :=
      stepInstance_eq_next_iff.2 (.inr ⟨s, t, hsame ▸ hs, hstep, rfl⟩)
    have hkept := getElem?_of_stepInstance hjk.symm hk'
    refine ⟨_, hk', stepInstance_eq_next_iff.2 ?_⟩
    obtain ⟨hnone, rfl⟩ | ⟨s', t', hs', hstep', rfl⟩ := stepInstance_eq_next_iff.1 hj
    · exact .inl ⟨hkept.trans hnone, rfl⟩
    · exact .inr ⟨s', t', hkept.trans hs', hstep', by rw [List.set_comm _ _ hjk]⟩

/-! ### The obligations -/

/-- Settles O57: what the transport answered makes one well-formed command or none. -/
theorem pollCycleIssuesOneCommand : Obligations.PollCycleIssuesOneCommand := by
  unfold Obligations.PollCycleIssuesOneCommand
  refine ⟨fun ts d => rfl, fun ts words hlt => ?_, fun ts words hle => cycleCommand_block_of_le ts hle,
    fun ts r i s hok => ?_, fun ts r e s herror => pollCycle_of_error ts herror s⟩
  · exact ⟨_, toNat_ofNat_length hlt, cycleCommand_block_of_lt ts hlt⟩
  · refine ⟨pollCycle_of_ok ts hok s, fun hport => ?_⟩
    rw [pollCycle_of_ok ts hok, step_issue_of_port_nil (wellFormed_of_cycleCommand ts hok) hport]

/-- Settles O58: each step reads and writes its own place of the list alone. -/
theorem instancesAreIndependent : Obligations.InstancesAreIndependent := by
  unfold Obligations.InstancesAreIndependent
  exact fun f g h j k hjk hj hk => ⟨getElem?_of_stepInstance hjk hj, stepInstance_comm hjk hj hk⟩

end Sys2Proof.Proofs.HostSide
end

section
/-!
PROOFS. The numbers of the rendered texts (43_event_output.md R174, R178, R179): rounding to thousandths, groups of decimal
digits, and the texts of a float and of a time that are made of them.
-/

namespace Sys2Proof.Proofs.Rendering

open Sys2Proof Sys2Proof.Machine Sys2Proof.Proofs.EventOutput

/-! ### Rounding to nearest, ties to even -/

/-- Twice the distance of the rounded quotient, in units of the divisor, is at most the divisor; at exactly half the rounded
quotient is even. -/
theorem rneDiv_bounds (n d : Nat) (hd : 0 < d) :
    2 * (rneDiv n d * d) ≤ 2 * n + d ∧ 2 * n ≤ 2 * (rneDiv n d * d) + d ∧
    (2 * (rneDiv n d * d) = 2 * n + d ∨ 2 * n = 2 * (rneDiv n d * d) + d → rneDiv n d % 2 = 0) := by
  have hdiv : n / d * d + n % d = n := Nat.div_add_mod' n d
  have hmod : n % d < d := Nat.mod_lt n hd
  have hsucc : (n / d + 1) * d = n / d * d + d := Nat.succ_mul _ _
  simp only [rneDiv]
  split_ifs with hless htie
  · refine ⟨by omega, by omega, by omega⟩
  · rcases Nat.mod_two_eq_zero_or_one (n / d) with heven | hodd
    · rw [heven, Nat.add_zero]
      exact ⟨by omega, by omega, fun _ => heven⟩
    · rw [hodd, hsucc]
      exact ⟨by omega, by omega, fun _ => by omega⟩
  · rw [hsucc]
    exact ⟨by omega, by omega, by omega⟩

/-- The same, as a distance between rationals. -/
theorem rneDiv_near (n d : Nat) (hd : 0 < d) :
    |(rneDiv n d : ℚ) - n / d| ≤ 1 / 2 ∧ (|(rneDiv n d : ℚ) - n / d| = 1 / 2 → rneDiv n d % 2 = 0) := by
  obtain ⟨hup, hdown, htie⟩ := rneDiv_bounds n d hd
  have hdq : (0 : ℚ) < d := by exact_mod_cast hd
  have hupq : 2 * ((rneDiv n d : ℚ) * d) ≤ 2 * n + d := by exact_mod_cast hup
  have hdownq : 2 * (n : ℚ) ≤ 2 * ((rneDiv n d : ℚ) * d) + d := by exact_mod_cast hdown
  have hquot : (n : ℚ) / d * d = n := div_mul_cancel₀ _ hdq.ne'
  generalize hq : (n : ℚ) / d = q at *
  constructor
  · rw [abs_le]
    constructor <;> nlinarith
  · intro hhalf
    apply htie
    rcases (abs_eq (by norm_num)).1 hhalf with h | h
    · left
      have : 2 * ((rneDiv n d : ℚ) * d) = 2 * n + d := by rw [← hquot]; linear_combination 2 * (d : ℚ) * h
      exact_mod_cast this
    · right
      have : 2 * (n : ℚ) = 2 * ((rneDiv n d : ℚ) * d) + d := by rw [← hquot]; linear_combination -2 * (d : ℚ) * h
      exact_mod_cast this

/-- The quotient that `thousandths` rounds is the value in thousandths. -/
theorem thousandths_quotient (m : Nat) (e : Int) :
    ((m * 1000 * 2 ^ e.toNat : Nat) : ℚ) / ((2 ^ (-e).toNat : Nat) : ℚ) = real false m e * 1000 := by
  have hpow : (2 : ℚ) ^ e = 2 ^ e.toNat / 2 ^ (-e).toNat := by
    rw [← zpow_natCast, ← zpow_natCast, ← zpow_sub₀ two_ne_zero]
    congr 1
    omega
  rw [real, hpow]
  push_cast
  ring

/-! ### Groups of decimal digits -/

theorem someDigits_cons (c : Char) (cs : Text) : someDigits 10 decDigit (c :: cs) = digitsValue 10 decDigit 0 (c :: cs) := rfl

theorem digitsValue_nil (n : Nat) : digitsValue 10 decDigit n [] = some n := rfl

theorem writesNumber_twoDigits {n : Nat} (h : n < 100) : WritesNumber 2 n (twoDigits n) := by
  refine ⟨rfl, ?_⟩
  rw [twoDigits, someDigits_cons, digitsValue_digitChar_cons, digitsValue_digitChar_cons, digitsValue_nil]
  congr 1
  omega

theorem writesNumber_threeDigits {n : Nat} (h : n < 1000) : WritesNumber 3 n (threeDigits n) := by
  refine ⟨rfl, ?_⟩
  rw [threeDigits, someDigits_cons, digitsValue_digitChar_cons, digitsValue_digitChar_cons, digitsValue_digitChar_cons,
    digitsValue_nil]
  congr 1
  omega

/-- Two groups of two digits write a number below 10000. -/
theorem writesNumber_fourDigits {n : Nat} (h : n < 10000) : WritesNumber 4 n (twoDigits (n / 100) ++ twoDigits (n % 100)) := by
  refine ⟨rfl, ?_⟩
  simp only [twoDigits, List.cons_append, List.nil_append, someDigits_cons, digitsValue_digitChar_cons, digitsValue_nil]
  congr 1
  omega

/-- The digits of a fraction read back one by one. -/
theorem map_decDigit_digitChar (ds : List (Fin 10)) :
    (ds.map fun d => digitChar d.val).map decDigit = ds.map fun d => some d.val := by
  rw [List.map_map]
  refine List.map_congr_left fun d _ => ?_
  rw [Function.comp_apply, decDigit_digitChar, Nat.mod_eq_of_lt d.isLt]

/-! ### The texts of a float (R174, R175) -/

theorem fixed3_eq (neg : Bool) (m : Nat) (e : Int) :
    fixed3 neg m e = (if neg then ['-'] else []) ++ natText (thousandths m e / 1000) ++ ['.'] ++
      threeDigits (thousandths m e % 1000) := rfl

theorem fmt3_of_fin {x : FloatPattern} {neg : Bool} {m : Nat} {e : Int} (h : datum x = .fin neg m e) :
    fmt3 x = fixed3 neg m e := by
  rw [fmt3, h]

theorem fmt3_of_nonfinite {x : FloatPattern} (h : ∀ neg m e, datum x ≠ .fin neg m e) :
    fmt3 x = Config.fmtNonfinite x := by
  rw [fmt3]
  cases hx : datum x with
  | nan => rfl
  | inf neg => rfl
  | fin neg m e => exact absurd hx (h neg m e)

/-! ### The text of a time (R179) -/

/-- The fraction of a second is written behind a point, if there is one. -/
theorem secondText_fraction (s : Fin 61) {ds : List (Fin 10)} (h : ds ≠ []) :
    secondText (some (s, ds)) = [':'] ++ twoDigits s ++ ['.'] ++ ds.map fun d => digitChar d.val := by
  cases ds with
  | nil => exact absurd rfl h
  | cons d ds => simp [secondText]

theorem isoText_eq (z : Config.ZonedTime) :
    isoText z = (twoDigits (z.year / 100) ++ twoDigits (z.year % 100)) ++ ['-'] ++ twoDigits (z.month + 1) ++ ['-'] ++
      twoDigits (z.day + 1) ++ ['T'] ++ twoDigits z.hour ++ [':'] ++ twoDigits z.minute ++ secondText z.second ++
      offsetText z.offset := rfl

/-! ### The obligations -/

/-- Settles O52: `thousandths` is the rounded quotient of the value in thousandths. -/
theorem thousandthsRoundToNearestEven : Obligations.ThousandthsRoundToNearestEven := by
  unfold Obligations.ThousandthsRoundToNearestEven
  intro m e
  rw [← thousandths_quotient, thousandths]
  exact rneDiv_near _ _ (Nat.two_pow_pos _)

/-- Settles O53: the digits of a number are written with fuel enough. -/
theorem decimalTextReadsBack : Obligations.DecimalTextReadsBack := by
  unfold Obligations.DecimalTextReadsBack
  exact ⟨natText_of_lt_ten (by decide), fun n => ⟨someDigits_natText n, natText_head?_ne_zero⟩⟩

/-- Settles O54: the fraction is a group of three digits of a number below 1000. -/
theorem fixedThreeWritesTheThousandths : Obligations.FixedThreeWritesTheThousandths := by
  unfold Obligations.FixedThreeWritesTheThousandths
  refine ⟨fun neg m e => ?_, fun b => rfl, fun b => rfl, fun x => ⟨fun neg m e => fmt3_of_fin, fmt3_of_nonfinite⟩⟩
  exact ⟨_, fixed3_eq neg m e, writesNumber_threeDigits (Nat.mod_lt _ (by decide))⟩

/-- Settles O55: each part of the time is its group of digits. -/
theorem timeTextIsIso8601WithOffset : Obligations.TimeTextIsIso8601WithOffset := by
  unfold Obligations.TimeTextIsIso8601WithOffset
  refine ⟨fun ts => rfl, fun z => ⟨_, _, _, _, _, _, _, isoText_eq z, writesNumber_fourDigits z.year.isLt,
    writesNumber_twoDigits (by omega), writesNumber_twoDigits (by omega), writesNumber_twoDigits (by omega),
    writesNumber_twoDigits (by omega), fun hnone => ?none, fun s hwhole => ?whole, fun s ds hfraction hne => ?fraction,
    fun hutc => ?utc, fun west h m hnumeric => ?numeric⟩⟩
  case none => rw [hnone, secondText]
  case whole =>
    rw [hwhole]
    exact ⟨twoDigits s, writesNumber_twoDigits (by omega), rfl⟩
  case fraction =>
    rw [hfraction, secondText_fraction s hne]
    exact ⟨_, _, writesNumber_twoDigits (by omega), map_decDigit_digitChar ds, rfl⟩
  case utc => rw [hutc, offsetText]
  case numeric =>
    rw [hnumeric]
    exact ⟨_, _, writesNumber_twoDigits (by omega), writesNumber_twoDigits (by omega), rfl⟩

end Sys2Proof.Proofs.Rendering
end

section
/-!
PROOFS. The currents and the weld test (41_classifier.md R122 to R126): which data a pattern stands for, the product with 50
as an exact value, the ordered comparison as that of rational values, and the free NaN (93_implementation_defined.md item 5).
-/

namespace Sys2Proof.Proofs.Currents

open Sys2Proof Sys2Proof.Machine

/-! ### The datum of a pattern (R14) -/

section
variable {fb top : Nat} {qmin : Int} {neg : Bool} {ex fr : Nat}

theorem of_datumOf_eq_nan (h : datumOf fb top qmin neg ex fr = .nan) : ex = top ∧ fr ≠ 0 := by
  unfold datumOf at h
  split_ifs at h with htop hfr
  exact ⟨htop, hfr⟩

theorem of_datumOf_eq_inf {a : Bool} (h : datumOf fb top qmin neg ex fr = .inf a) : a = neg ∧ ex = top ∧ fr = 0 := by
  unfold datumOf at h
  split_ifs at h with htop hfr
  exact ⟨(Datum.inf.inj h).symm, htop, hfr⟩

/-- A finite datum is subnormal or normal, as its biased exponent says. -/
theorem of_datumOf_eq_fin {a : Bool} {m : Nat} {e : Int} (h : datumOf fb top qmin neg ex fr = .fin a m e) :
    a = neg ∧ ex ≠ top ∧ (ex = 0 ∧ m = fr ∧ e = qmin ∨ ex ≠ 0 ∧ m = 2 ^ fb + fr ∧ e = qmin + ex - 1) := by
  unfold datumOf at h
  split_ifs at h with htop hfr hzero
  · obtain ⟨rfl, rfl, rfl⟩ := Datum.fin.inj h
    exact ⟨rfl, htop, .inl ⟨hzero, rfl, rfl⟩⟩
  · obtain ⟨rfl, rfl, rfl⟩ := Datum.fin.inj h
    exact ⟨rfl, htop, .inr ⟨hzero, rfl, rfl⟩⟩

end

/-- The top bit of a vector as a comparison. -/
theorem getLsbD_eq_decide_le {n : Nat} (b : BitVec (n + 1)) : b.getLsbD n = decide (2 ^ n ≤ b.toNat) :=
  (BitVec.msb_eq_getLsbD_last b).symm.trans (BitVec.msb_eq_decide b)

/-- The fields of a binary32 pattern as numbers. -/
theorem f32_eq (b : Word) :
    f32 b = datumOf 23 255 (-149) (decide (2 ^ 31 ≤ b.toNat)) (b.toNat / 2 ^ 23 % 2 ^ 8) (b.toNat % 2 ^ 23) := by
  rw [f32, getLsbD_eq_decide_le, BitVec.extractLsb'_toNat, BitVec.extractLsb'_toNat, Nat.shiftRight_eq_div_pow,
    Nat.shiftRight_zero]

/-- The fields of a binary64 pattern as numbers. -/
theorem f64_eq (b : Dword) :
    f64 b = datumOf 52 2047 (-1074) (decide (2 ^ 63 ≤ b.toNat)) (b.toNat / 2 ^ 52 % 2 ^ 11) (b.toNat % 2 ^ 52) := by
  rw [f64, getLsbD_eq_decide_le, BitVec.extractLsb'_toNat, BitVec.extractLsb'_toNat, Nat.shiftRight_eq_div_pow,
    Nat.shiftRight_zero]

/-- The size of a finite binary32 value. -/
theorem bounds_of_f32_eq_fin {b : Word} {neg : Bool} {m : Nat} {e : Int} (h : f32 b = .fin neg m e) :
    m < 2 ^ 24 ∧ -149 ≤ e ∧ e ≤ 104 := by
  obtain ⟨_, htop, hfin⟩ := of_datumOf_eq_fin ((f32_eq b).symm.trans h)
  omega

/-! ### Exact values -/

theorem real_eq_signed (neg : Bool) (m : Nat) (e : Int) : real neg m e = (signed neg m : ℚ) * 2 ^ e := by
  cases neg <;> simp [real, signed]

/-- A significand shifted left with the exponent lowered is the same value. -/
theorem real_shift (neg : Bool) (m j : Nat) (e : Int) : real neg (m * 2 ^ j) (e - j) = real neg m e := by
  have hpow : (2 : ℚ) ^ (e - j) = 2 ^ e / 2 ^ j := by rw [zpow_sub₀ two_ne_zero, zpow_natCast]
  rw [real, real, hpow]
  push_cast
  field_simp

theorem real_zero (neg : Bool) (e : Int) : real neg 0 e = 0 := by simp [real]

/-- A value within binary64's precision and range is kept, as a value (R123). -/
theorem f64_round64_real (neg : Bool) {m : Nat} {e : Int} (hm : m < 2 ^ 53) (hlo : -1074 ≤ e) (hhi : e ≤ 971) :
    ∃ m' e', f64 (round64 neg m e) = .fin neg m' e' ∧ real neg m' e' = real neg m e := by
  have hlog : Nat.log2 m ≤ 52 := by
    rcases eq_or_ne m 0 with rfl | h0
    · decide
    · exact Nat.le_of_lt_succ ((Nat.log2_lt h0).2 hm)
  obtain ⟨j, hkept | ⟨rfl, hzero⟩⟩ := f64_round64_exact neg m e hm hlo (by omega)
  · exact ⟨_, _, hkept, real_shift neg m j e⟩
  · exact ⟨_, _, hzero, by rw [real_zero, real_zero]⟩

/-- The datum of a small natural number, not 0 (the constants of R122 and R124). -/
theorem f64_nat64 {n : Nat} (h0 : n ≠ 0) (hn : n < 2 ^ 53) : ∃ k : Nat, f64 (nat64 n) = .fin false (n * 2 ^ k) (0 - k) := by
  have hlog : Nat.log2 n ≤ 52 := Nat.le_of_lt_succ ((Nat.log2_lt h0).2 hn)
  obtain ⟨k, hkept | ⟨hzero, _⟩⟩ := f64_round64_exact false n 0 hn (by omega) (by omega)
  · exact ⟨k, hkept⟩
  · exact absurd hzero h0

theorem round64_zero (neg : Bool) (e e' : Int) : round64 neg 0 e = round64 neg 0 e' := by
  simp [round64, roundMagnitude]

/-! ### The product with 50 (R122, R123) -/

section
variable (nan : Dword) {x y : Dword}

theorem mul64_fin {a b : Bool} {m n : Nat} {e f : Int} (hx : f64 x = .fin a m e) (hy : f64 y = .fin b n f) :
    mul64 nan x y = round64 (a ^^ b) (m * n) (e + f) := by
  rw [mul64, hx, hy]

theorem mul64_inf {a b : Bool} {n : Nat} {f : Int} (hx : f64 x = .inf a) (hy : f64 y = .fin b n f) (hn : n ≠ 0) :
    mul64 nan x y = inf64 (a ^^ b) := by
  rw [mul64, hx, hy]
  exact if_neg hn

theorem mul64_nan (hx : f64 x = .nan) : mul64 nan x y = nan := by
  rw [mul64, hx]

variable {b : Word}

theorem widen64_of_fin {neg : Bool} {m : Nat} {e : Int} (h : f32 b = .fin neg m e) : widen64 b = round64 neg m e := by
  rw [widen64, h]

theorem f64_widen64_of_inf {neg : Bool} (h : f32 b = .inf neg) : f64 (widen64 b) = .inf neg := by
  rw [widen64, h]
  exact f64_inf64 neg

theorem f64_widen64_of_nan (h : f32 b = .nan) : f64 (widen64 b) = .nan := by
  rw [widen64, h]
  exact f64_nan64 _ _

/-- The current of a finite float is one rounding of 50 times its significand (R122). -/
theorem scaleCurrent_of_fin {neg : Bool} {m : Nat} {e : Int} (h : f32 b = .fin neg m e) :
    scaleCurrent nan b = round64 neg (m * 50) e := by
  obtain ⟨hm, hlo, hhi⟩ := bounds_of_f32_eq_fin h
  obtain ⟨k, h50⟩ := f64_nat64 (n := Config.currentScale) (by decide) (by decide)
  have hlog : Nat.log2 m ≤ 24 := by
    rcases eq_or_ne m 0 with rfl | h0
    · decide
    · exact ((Nat.log2_lt h0).2 hm).le
  rw [scaleCurrent, widen64_of_fin h]
  obtain ⟨j, hkept | ⟨rfl, hzero⟩⟩ := f64_round64_exact neg m e (by omega) (by omega) (by omega)
  · have hsplit : m * 2 ^ j * (Config.currentScale * 2 ^ k) = m * 50 * 2 ^ (j + k) := by
      rw [Nat.pow_add]
      ring
    have hexp : e - j + (0 - k) = e - (j + k : Nat) := by omega
    rw [mul64_fin nan hkept h50, Bool.xor_false, hsplit, hexp, round64_scale]
  · rw [mul64_fin nan hzero h50, Bool.xor_false, Nat.zero_mul, Nat.zero_mul]
    exact round64_zero neg _ _

/-- The current of a finite float is 50 times its value (R123). -/
theorem f64_scaleCurrent_of_fin {neg : Bool} {m : Nat} {e : Int} (h : f32 b = .fin neg m e) :
    ∃ m' e', f64 (scaleCurrent nan b) = .fin neg m' e' ∧ real neg m' e' = 50 * real neg m e := by
  obtain ⟨hm, hlo, hhi⟩ := bounds_of_f32_eq_fin h
  obtain ⟨m', e', hfin, hreal⟩ := f64_round64_real neg (m := m * 50) (e := e) (by omega) (by omega) (by omega)
  refine ⟨m', e', by rw [scaleCurrent_of_fin nan h, hfin], ?_⟩
  rw [hreal, real, real]
  push_cast
  ring

theorem f64_scaleCurrent_of_inf {neg : Bool} (h : f32 b = .inf neg) : f64 (scaleCurrent nan b) = .inf neg := by
  obtain ⟨k, h50⟩ := f64_nat64 (n := Config.currentScale) (by decide) (by decide)
  have hne : Config.currentScale * 2 ^ k ≠ 0 := Nat.mul_ne_zero (by decide) (Nat.two_pow_pos k).ne'
  rw [scaleCurrent, mul64_inf nan (f64_widen64_of_inf h) h50 hne, Bool.xor_false, f64_inf64]

theorem scaleCurrent_of_nan (h : f32 b = .nan) : scaleCurrent nan b = nan :=
  mul64_nan nan (f64_widen64_of_nan h)

end

/-! ### The ordered comparison (R14, R124) -/

/-- Finite data are compared as their values. -/
theorem datumGe_fin_iff (a b : Bool) (m n : Nat) (e f : Int) :
    datumGe (.fin a m e) (.fin b n f) = true ↔ real b n f ≤ real a m e := by
  have hsplit : ∀ g : Int, min e f ≤ g → (2 : ℚ) ^ g = 2 ^ (g - min e f).toNat * 2 ^ (min e f) := by
    intro g hg
    rw [← zpow_natCast, ← zpow_add₀ two_ne_zero]
    congr 1
    omega
  have hpos : (0 : ℚ) < 2 ^ (min e f) := zpow_pos two_pos _
  rw [real_eq_signed, real_eq_signed, hsplit e (min_le_left e f), hsplit f (min_le_right e f), ← mul_assoc, ← mul_assoc,
    mul_le_mul_iff_of_pos_right hpos, datumGe, decide_eq_true_iff]
  exact_mod_cast Iff.rfl

section
variable {i : Dword}

/-- The weld test of a finite current (R124). -/
theorem weldTest_iff_of_fin {neg : Bool} {m : Nat} {e : Int} (h : f64 i = .fin neg m e) :
    weldTest i = true ↔ 30 ≤ real neg m e := by
  obtain ⟨k, h30⟩ := f64_nat64 (n := Config.weldThreshold) (by decide) (by decide)
  have hreal : real false (Config.weldThreshold * 2 ^ k) (0 - k) = 30 := by
    rw [real_shift]
    norm_num [real]
  rw [weldTest, ge64, h, h30, datumGe_fin_iff, hreal]

theorem weldTest_of_inf {neg : Bool} (h : f64 i = .inf neg) : weldTest i = !neg := by
  obtain ⟨k, h30⟩ := f64_nat64 (n := Config.weldThreshold) (by decide) (by decide)
  rw [weldTest, ge64, h, h30]
  cases neg <;> rfl

theorem weldTest_of_nan (h : f64 i = .nan) : weldTest i = false := by
  rw [weldTest, ge64, h]
  rfl

end

/-! ### The comparator on the pattern (R125) -/

/-- Below 2^-1 with a 24-bit significand. -/
theorem real_lt_half {m : Nat} {e : Int} (hm : m < 2 ^ 24) (he : e ≤ -25) : real false m e < 1 / 2 := by
  have hpow : (2 : ℚ) ^ e ≤ 2 ^ (-25 : Int) := zpow_le_zpow_right₀ one_le_two he
  have hmq : (m : ℚ) < 2 ^ 24 := by exact_mod_cast hm
  have hpos : (0 : ℚ) < 2 ^ e := zpow_pos two_pos e
  calc real false m e = m * 2 ^ e := by simp [real]
    _ < 2 ^ 24 * 2 ^ e := mul_lt_mul_of_pos_right hmq hpos
    _ ≤ 2 ^ 24 * 2 ^ (-25 : Int) := mul_le_mul_of_nonneg_left hpow (by positivity)
    _ = 1 / 2 := by norm_num

/-- At least 1 with a full significand. -/
theorem one_le_real {m : Nat} {e : Int} (hm : 2 ^ 23 ≤ m) (he : -23 ≤ e) : 1 ≤ real false m e := by
  have hpow : (2 : ℚ) ^ (-23 : Int) ≤ 2 ^ e := zpow_le_zpow_right₀ one_le_two he
  have hmq : (2 : ℚ) ^ 23 ≤ m := by exact_mod_cast hm
  calc (1 : ℚ) = 2 ^ 23 * 2 ^ (-23 : Int) := by norm_num
    _ ≤ m * 2 ^ e := mul_le_mul hmq hpow (by positivity) (by positivity)
    _ = real false m e := by simp [real]

/-- Between 2^-1 and 1 the significand decides; the bound is 0.6 * 2^24. -/
theorem three_fifths_le_real_iff (m : Nat) : 3 / 5 ≤ real false m (-24) ↔ 10066330 ≤ m := by
  have hreal : real false m (-24) = m / 2 ^ 24 := by
    rw [real, zpow_neg]
    norm_num
    ring
  rw [hreal, div_le_div_iff₀ (by norm_num) (by norm_num)]
  constructor
  · intro h
    have hnat : 3 * 2 ^ 24 ≤ m * 5 := by exact_mod_cast h
    omega
  · intro h
    have hnat : 3 * 2 ^ 24 ≤ m * 5 := by omega
    exact_mod_cast hnat

theorem real_true_nonpos (m : Nat) (e : Int) : real true m e ≤ 0 := by
  have : (0 : ℚ) ≤ m * 2 ^ e := by positivity
  simpa [real] using this

/-- A finite float is at least 0.6 exactly where its pattern is in the comparator's range. -/
theorem three_fifths_le_iff_of_fin {b : Word} {neg : Bool} {m : Nat} {e : Int} (h : f32 b = .fin neg m e) :
    3 / 5 ≤ real neg m e ↔ 0x3F19999A ≤ b.toNat ∧ b.toNat ≤ 0x7F800000 := by
  obtain ⟨hm, _, _⟩ := bounds_of_f32_eq_fin h
  obtain ⟨hneg, htop, hfin⟩ := of_datumOf_eq_fin ((f32_eq b).symm.trans h)
  have hb := b.isLt
  cases neg with
  | true =>
    have hsign : 2 ^ 31 ≤ b.toNat := of_decide_eq_true hneg.symm
    have hreal := real_true_nonpos m e
    exact ⟨fun hle => absurd (hle.trans hreal) (by norm_num), fun hrange => by omega⟩
  | false =>
    have hsign : ¬ 2 ^ 31 ≤ b.toNat := of_decide_eq_false hneg.symm
    rcases lt_trichotomy e (-24) with hlow | rfl | hhigh
    · have hreal := real_lt_half hm (by omega : e ≤ -25)
      exact ⟨fun hle => absurd (hle.trans_lt hreal) (by norm_num), fun hrange => by omega⟩
    · rw [three_fifths_le_real_iff]
      omega
    · have hreal := one_le_real (by omega : 2 ^ 23 ≤ m) (by omega : -23 ≤ e)
      exact ⟨fun _ => by omega, fun _ => le_trans (by norm_num) hreal⟩

/-! ### The obligations -/

/-- Settles O28: widening and the product are exact on every binary32 value. -/
theorem currentIsExactlyFiftyTimes : Obligations.CurrentIsExactlyFiftyTimes := by
  unfold Obligations.CurrentIsExactlyFiftyTimes
  exact fun nan b _ => ⟨fun neg m e => f64_scaleCurrent_of_fin nan, fun neg => f64_scaleCurrent_of_inf nan,
    scaleCurrent_of_nan nan⟩

/-- Settles O29: 50 x is at least 30 where x is at least 0.6; +infinity is the upper end of the range, and the NaNs and the
negative patterns lie above it. -/
theorem weldTestIsThePatternComparator : Obligations.WeldTestIsThePatternComparator := by
  unfold Obligations.WeldTestIsThePatternComparator
  intro nan b hnan
  have hb := b.isLt
  cases hf : f32 b with
  | nan =>
    obtain ⟨hex, hfr⟩ := of_datumOf_eq_nan ((f32_eq b).symm.trans hf)
    rw [scaleCurrent_of_nan nan hf, weldTest_of_nan hnan]
    exact ⟨fun h => Bool.noConfusion h, fun hrange => by omega⟩
  | inf neg =>
    obtain ⟨hneg, hex, hfr⟩ := of_datumOf_eq_inf ((f32_eq b).symm.trans hf)
    rw [weldTest_of_inf (f64_scaleCurrent_of_inf nan hf), hneg, Bool.not_eq_true', decide_eq_false_iff_not]
    omega
  | fin neg m e =>
    obtain ⟨m', e', hfin, hreal⟩ := f64_scaleCurrent_of_fin nan hf
    rw [weldTest_iff_of_fin hfin, hreal, ← three_fifths_le_iff_of_fin hf]
    constructor <;> intro h <;> linarith

/-- A weld flag is that one of the four tests holds. -/
theorem weldFlag_eq_true_iff (i : Config.PerWeld Dword) :
    weldFlag i = true ↔ ∃ k : Fin 4, weldTest i[k] = true := by
  simp [weldFlag, Fin.exists_fin_succ, or_assoc]

/-- Settles O30: each of the four tests is the comparator on its float. -/
theorem weldFlagIsAnyOfFourCurrents : Obligations.WeldFlagIsAnyOfFourCurrents := by
  unfold Obligations.WeldFlagIsAnyOfFourCurrents
  intro n tel ps pw ts
  have htest : ∀ k : Fin 4, weldTest (Vector.ofFn (current n tel))[k] = true ↔
      0x3F19999A ≤ (tel.floats[k.val]).toNat ∧ (tel.floats[k.val]).toNat ≤ 0x7F800000 := by
    intro k
    rw [Fin.getElem_fin, Vector.getElem_ofFn, Classifier.current_eq_scaleCurrent_float]
    exact weldTestIsThePatternComparator (freeNaN n k) _ (f64_nan64 _ _)
  exact (weldFlag_eq_true_iff _).trans (exists_congr htest)

/-- A NaN is the free NaN of its own sign and fraction. -/
theorem nan64_of_f64_eq_nan {b : Dword} (h : f64 b = .nan) : nan64 (b.getLsbD 63) (b.extractLsb' 0 52) = b := by
  obtain ⟨hex, hfr⟩ := of_datumOf_eq_nan ((f64_eq b).symm.trans h)
  have hb := b.isLt
  have hfrac : (b.extractLsb' 0 52).toNat = b.toNat % 2 ^ 52 := by rw [BitVec.extractLsb'_toNat, Nat.shiftRight_zero]
  have hne : b.extractLsb' 0 52 ≠ 0 := fun h0 => hfr (hfrac.symm.trans (congrArg BitVec.toNat h0))
  have hsign : (BitVec.ofBool (b.getLsbD 63)).toNat = b.toNat / 2 ^ 63 := by
    rw [getLsbD_eq_decide_le]
    by_cases hle : 2 ^ 63 ≤ b.toNat
    · rw [decide_eq_true hle]
      exact (by omega : 1 = b.toNat / 2 ^ 63)
    · rw [decide_eq_false hle]
      exact (by omega : 0 = b.toNat / 2 ^ 63)
  apply BitVec.eq_of_toNat_eq
  rw [nan64, if_neg hne, pack64, toNat_concat, hsign, hfrac, BitVec.toNat_ofNat, infMagnitude64]
  omega

/-- Settles O31: a NaN's sign and fraction are arguments that give it, and all arguments give NaNs. -/
theorem freeNaNRangesOverAllNaNs : Obligations.FreeNaNRangesOverAllNaNs := by
  unfold Obligations.FreeNaNRangesOverAllNaNs
  refine ⟨fun b h => ⟨_, _, nan64_of_f64_eq_nan h⟩, f64_nan64, fun n tel k h => ⟨?_, f64_nan64 _ _⟩⟩
  rw [Classifier.current_eq_scaleCurrent_float, scaleCurrent_of_nan _ h]

end Sys2Proof.Proofs.Currents
end
